-- ==== Sys2Proof/Word.lean ====
section
/-! DEFINITION. The words of the machine: the byte, the 32-bit and 64-bit register words, the 4-bit counts. -/

namespace Sys2Proof

/-- A byte is 8 bits wide; bit 0 is its least significant bit (rules R14, R15). -/
abbrev Byte := BitVec 8

/-- CMD, ARG1, STATUS, IOERR, CFG and CAPS are 32 bits wide (rule R13, table 00-1). -/
abbrev Word32 := BitVec 32

/-- ARG0 and RES are 64 bits wide (rule R13, table 00-1). -/
abbrev Word64 := BitVec 64

/-- RD_CNT and WR_CNT are 4 bits wide (rules R34, R37). -/
abbrev Count := BitVec 4

end Sys2Proof
end

