-- ==== Sys2Proof/Config.lean ====
section
/-! DEFINITION. What is fixed for the machine: the bit direction's type, the seek origin's type, the sentinel, the
choices `State.reset` makes for the open parameters, and the free values. -/

namespace Sys2Proof

/-- The bit direction (rules R22, R32): `MSB_FIRST` is CFG.DIR = 0, `LSB_FIRST` is CFG.DIR = 1. -/
inductive Direction where
  | msbFirst
  | lsbFirst
  deriving DecidableEq, Repr

/-- The origin of a seek (table 30-2, rule R82): absolute, relative to the current position, relative to the end. -/
inductive Origin where
  | begin
  | current
  | fromEnd
  deriving DecidableEq, Repr

/-- The end-of-stream sentinel of READBIT and READBYTE (table 00-1, rule R221). -/
def Config.eosSentinel : Word64 := 0xFFFFFFFFFFFFFFFF#64

/-- The largest BUF_SIZE the spec admits (rule R13, table 00-1). -/
def Config.maxBufSize : Nat := 2 ^ 32

/-- DESIGN CHOICE (log entry 1, unsafe): the level of the strap `cfg_dir` at the reset that makes `State.reset`. -/
def Config.resetStrap : Direction := .msbFirst

/-- DESIGN CHOICE (log entry 2, unsafe): BUF_SIZE in `State.reset`, the whole address space. -/
def Config.resetBufSize : Nat := 2 ^ 32

/-- DESIGN CHOICE (log entry 3, unsafe): what a BUF byte that nothing has written reads as. -/
def Config.unlistedByte : Byte := 0x00#8

/-- Free value (log entry 7, safe): the k-th byte the spec leaves at "any value" (rules R158, R265; U8, U9). -/
opaque Config.freeByte : Nat → Byte

/-- Free value (log entry 8, safe, DESIGN CHOICE: the spec states no result there): the 64-bit pattern answered for a
position or length of the reference memory stream that 64-bit two's complement cannot hold (rules R13, R245). -/
opaque Config.wideQuantity : Nat → Word64

end Sys2Proof
end

