-- ==== Sys2Proof/Syntax.lean ====
section
/-! DEFINITION. The command set: one constructor per row of table 30-1, with the fields of its command word. The
operands in ARG0 and ARG1 are registers, not part of the word (rule R101). -/

namespace Sys2Proof

/-- "BitStreams CORE command set 1" (rules R3, R102). `writebit` carries B = CMD[8]; `seek` carries ORG = CMD[10:9]. -/
inductive Instr where
  | readbit
  | readbyte
  | read
  | writebit (b : Bool)
  | writebiti
  | write
  | flush
  | seek (org : BitVec 2)
  | getpos
  | setpos
  | getlen
  | setlen
  | getcaps
  deriving DecidableEq, Repr

end Sys2Proof
end

