-- ==== Sys2Proof/WellFormed.lean ====
section
/-! DEFINITION. Which terms of `Instr` stand for a legal command word. -/

namespace Sys2Proof

/-- The constraint of table 30-3 (rules R103, R104): ORG = 3 is illegal on SEEK. Every other field value is legal. -/
def Instr.wellFormed : Instr → Bool
  | .seek org => decide (org ≠ 3#2)
  | .readbit => true
  | .readbyte => true
  | .read => true
  | .writebit _ => true
  | .writebiti => true
  | .write => true
  | .flush => true
  | .getpos => true
  | .setpos => true
  | .getlen => true
  | .setlen => true
  | .getcaps => true

end Sys2Proof
end

