-- ==== Sys2Proof/Decode.lean ====
section
/-! DEFINITION. The decoder of the command word, total and rejecting by name (rules R103 to R105), then the encoder and
the rows of table 30-3. -/

namespace Sys2Proof

/-- Why a command word is illegal (rule R104). -/
inductive Illegal where
  /-- Some bit of RSV is set. -/
  | reservedBits
  /-- OPC is 0x00 or at least 0x0E. -/
  | unknownOpcode
  /-- B = 1 with OPC other than WRITEBIT's. -/
  | strayB
  /-- ORG other than 0 with OPC other than SEEK's. -/
  | strayOrg
  /-- ORG = 3 with SEEK's OPC. -/
  | badOrigin
  deriving DecidableEq, Repr

/-- OPC = CMD[7:0] (rule R100). -/
def opcField (w : Word32) : BitVec 8 := w.extractLsb' 0 8

/-- B = CMD[8] (rule R100). -/
def bField (w : Word32) : BitVec 1 := w.extractLsb' 8 1

/-- ORG = CMD[10:9] (rule R100). -/
def orgField (w : Word32) : BitVec 2 := w.extractLsb' 9 2

/-- RSV = CMD[31:11] (rule R100). -/
def rsvField (w : Word32) : BitVec 21 := w.extractLsb' 11 21

/-- Table 30-1: the command an opcode names, with the fields it uses. -/
def opcodeTable (opc : BitVec 8) (b : BitVec 1) (org : BitVec 2) : Option Instr :=
  match opc.toNat with
  | 0x01 => some .readbit
  | 0x02 => some .readbyte
  | 0x03 => some .read
  | 0x04 => some (.writebit (decide (b = 1#1)))
  | 0x05 => some .writebiti
  | 0x06 => some .write
  | 0x07 => some .flush
  | 0x08 => some (.seek org)
  | 0x09 => some .getpos
  | 0x0A => some .setpos
  | 0x0B => some .getlen
  | 0x0C => some .setlen
  | 0x0D => some .getcaps
  | _ => none

/-- The decoder, in the order of rule R105: RSV, then the opcode, then B, then ORG. -/
def decode (w : Word32) : Except Illegal Instr :=
  if rsvField w ≠ 0#21 then .error .reservedBits
  else
    match opcodeTable (opcField w) (bField w) (orgField w) with
    | none => .error .unknownOpcode
    | some i =>
      if bField w ≠ 0#1 ∧ opcField w ≠ 0x04#8 then .error .strayB
      else if orgField w ≠ 0#2 ∧ opcField w ≠ 0x08#8 then .error .strayOrg
      else if orgField w = 3#2 then .error .badOrigin
      else .ok i

/-- The command read from a word given as a number; bits at and above `nbits` are 0. A command is one word (rule R100). -/
def decodeTableWord (nbits w : Nat) : Option Instr :=
  match decode (BitVec.ofNat 32 (w % 2 ^ nbits)) with
  | .ok i => some i
  | .error _ => none

/-- A command word from its fields (rule R100); RSV is 0. -/
def packWord (opc : BitVec 8) (b : BitVec 1) (org : BitVec 2) : Word32 := (0#21 ++ org ++ b ++ opc : BitVec 32)

/-- The command word of a command (table 30-3, rule R106). -/
def encode : Instr → Word32
  | .readbit => packWord 0x01#8 0#1 0#2
  | .readbyte => packWord 0x02#8 0#1 0#2
  | .read => packWord 0x03#8 0#1 0#2
  | .writebit b => packWord 0x04#8 (BitVec.ofBool b) 0#2
  | .writebiti => packWord 0x05#8 0#1 0#2
  | .write => packWord 0x06#8 0#1 0#2
  | .flush => packWord 0x07#8 0#1 0#2
  | .seek org => packWord 0x08#8 0#1 org
  | .getpos => packWord 0x09#8 0#1 0#2
  | .setpos => packWord 0x0A#8 0#1 0#2
  | .getlen => packWord 0x0B#8 0#1 0#2
  | .setlen => packWord 0x0C#8 0#1 0#2
  | .getcaps => packWord 0x0D#8 0#1 0#2

/-- One row of table 30-3: the fixed bits of a legal word, and whether the row carries the constraint ORG ≠ 3. -/
structure TableRow where
  pattern : Word32
  mask : Word32
  orgConstraint : Bool
  deriving DecidableEq, Repr

/-- `w` matches the row (rule R103). -/
def TableRow.accepts (r : TableRow) (w : Word32) : Bool :=
  decide (w &&& r.mask = r.pattern) && !(r.orgConstraint && decide (orgField w = 3#2))

/-- The row of table 30-3 that a command belongs to. -/
def rowOf : Instr → TableRow
  | .readbit => ⟨0x00000001#32, 0xFFFFFFFF#32, false⟩
  | .readbyte => ⟨0x00000002#32, 0xFFFFFFFF#32, false⟩
  | .read => ⟨0x00000003#32, 0xFFFFFFFF#32, false⟩
  | .writebit _ => ⟨0x00000004#32, 0xFFFFFEFF#32, false⟩
  | .writebiti => ⟨0x00000005#32, 0xFFFFFFFF#32, false⟩
  | .write => ⟨0x00000006#32, 0xFFFFFFFF#32, false⟩
  | .flush => ⟨0x00000007#32, 0xFFFFFFFF#32, false⟩
  | .seek _ => ⟨0x00000008#32, 0xFFFFF9FF#32, true⟩
  | .getpos => ⟨0x00000009#32, 0xFFFFFFFF#32, false⟩
  | .setpos => ⟨0x0000000A#32, 0xFFFFFFFF#32, false⟩
  | .getlen => ⟨0x0000000B#32, 0xFFFFFFFF#32, false⟩
  | .setlen => ⟨0x0000000C#32, 0xFFFFFFFF#32, false⟩
  | .getcaps => ⟨0x0000000D#32, 0xFFFFFFFF#32, false⟩

/-- Table 30-3, row by row. -/
def tableRows : List TableRow :=
  [rowOf .readbit, rowOf .readbyte, rowOf .read, rowOf (.writebit false), rowOf .writebiti, rowOf .write, rowOf .flush,
    rowOf (.seek 0#2), rowOf .getpos, rowOf .setpos, rowOf .getlen, rowOf .setlen, rowOf .getcaps]

end Sys2Proof
end

