-- ==== Sys2Proof/Machine/Engine.lean ====
section
/-! DEFINITION. The Bit Order Policy and the Bulk Shift Engine (spec/40_bit_order_policy.md): pure functions that every
command uses and that hold no state. -/

namespace Sys2Proof.Machine

/-- `Pos(dir, k)` (rule R130); no value for an index outside 0..7 (rule R131). -/
def pos (dir : Direction) (k : Nat) : Option Nat :=
  if k < 8 then
    some (match dir with
      | .msbFirst => 7 - k
      | .lsbFirst => k)
  else none

/-- `GetBit(v, p)` (rule R133). -/
def getBit (v : Byte) (p : Nat) : Byte := (v >>> p) &&& 0x01#8

/-- `SetBit(v, p)` (rule R133). -/
def setBit (v : Byte) (p : Nat) : Byte := v ||| (0x01#8 <<< p)

/-- The byte with only the bit at logical index `k` set, empty outside the policy's domain (rules R130, R134). -/
def logicalBit (dir : Direction) (k : Nat) : Byte :=
  match pos dir k with
  | some p => 0x01#8 <<< p
  | none => 0x00#8

/-- `FILL(dir, f)`: the bits at logical indexes 0..f-1 (rule R134, table 40-1). -/
def fill (dir : Direction) (f : Nat) : Byte := (List.range f).foldl (fun m k => m ||| logicalBit dir k) 0x00#8

/-- `UNREAD(dir, p)`: the bits at logical indexes 8-p..7 (rule R134, table 40-2). -/
def unread (dir : Direction) (p : Nat) : Byte := 0xFF#8 &&& ~~~(fill dir (8 - p))

/-- `Funnel(dir, s, prev, cur)`: the 16-bit funnel shift (rule R139). -/
def funnel (dir : Direction) (s : Nat) (prev cur : Byte) : Byte :=
  match dir with
  | .msbFirst => ((prev ++ cur : BitVec 16) >>> s).setWidth 8
  | .lsbFirst => ((cur ++ prev : BitVec 16) >>> (8 - s)).setWidth 8

/-- The output bytes of the splice loop (rule R138). -/
def spliceOut (dir : Direction) (s : Nat) : Byte → List Byte → List Byte
  | _, [] => []
  | prev, cur :: rest => funnel dir s prev cur :: spliceOut dir s cur rest

/-- The new raw carry byte: the last input byte, or the old carry when there is none (rules R138, R142). -/
def spliceCarry (c : Byte) (src : List Byte) : Byte := src.getLastD c

/-- `Splice(dir, s, c, src)` (rule R138); no value for a carry width outside 1..7. -/
def splice (dir : Direction) (s : Nat) (c : Byte) (src : List Byte) : Option (List Byte × Byte) :=
  if 1 ≤ s ∧ s ≤ 7 then some (spliceOut dir s c src, spliceCarry c src) else none

/-- `ToRaw(dir, f, w)` (rule R140). -/
def toRaw (dir : Direction) (f : Nat) (w : Byte) : Byte :=
  match dir with
  | .msbFirst => w >>> (8 - f)
  | .lsbFirst => w <<< (8 - f)

/-- `FromRaw(dir, f, c)` (rule R140). -/
def fromRaw (dir : Direction) (f : Nat) (c : Byte) : Byte :=
  match dir with
  | .msbFirst => c <<< (8 - f)
  | .lsbFirst => c >>> (8 - f)

/-- One store of an in-place engine (rule R141): output byte `i` overwrites the storage of input byte `i`. -/
def inPlaceStore (dir : Direction) (s : Nat) (c : Byte) (bytes : List Byte) (i : Nat) : List Byte :=
  bytes.set i (funnel dir s (if i = 0 then c else bytes.getD (i - 1) 0x00#8) (bytes.getD i 0x00#8))

/-- An in-place engine that walks from the highest index down to 0, the order rules R141 and R264 ask for. -/
def inPlaceDescending (dir : Direction) (s : Nat) (c : Byte) (src : List Byte) : List Byte :=
  (List.range src.length).reverse.foldl (inPlaceStore dir s c) src

/-- An in-place engine that walks upward: the hazard of rules R141 and R264. No command uses it. -/
def inPlaceAscending (dir : Direction) (s : Nat) (c : Byte) (src : List Byte) : List Byte :=
  (List.range src.length).foldl (inPlaceStore dir s c) src

end Sys2Proof.Machine
end

