-- ==== Sys2Proof/Machine/State.lean ====
section
/-! DEFINITION. The state of the machine: the core's registers (table 10-1), BUF, the bound downstream, the host's
events to come, and the model's own record of the downstream requests; the reasons a step can stop; the reset state. -/

namespace Sys2Proof.Machine

/-- The completion codes of table 60-1 (rule R220). Codes 6 and 7 are never produced, so they are no constructor. -/
inductive Code where
  | ok
  | invalidArgument
  | notSupported
  | ioError
  | illegalCommand
  | bufferRange
  deriving DecidableEq, Repr

/-- The stored fields of STATUS (rule R46); its fourth field, BUSY, is the state machine itself (log entry 12). -/
structure Status where
  code : Code
  eos : Bool
  stickyErr : Bool
  deriving DecidableEq, Repr

/-- The two states of the Bit Stream Facade (rule R50). -/
inductive Fsm where
  | idle
  | busy
  deriving DecidableEq, Repr

/-- The three capability flags of a downstream (rules R48, R84). -/
structure Caps where
  canRead : Bool
  canWrite : Bool
  canSeek : Bool
  deriving DecidableEq, Repr

/-- A downstream request: the primitives of rule R19 (rule R52). Positions, offsets and lengths are signed (rule R101). -/
inductive Request where
  | read (n : Nat)
  | write (bytes : List Byte)
  | flush
  | seek (off : Int) (origin : Origin)
  | getPos
  | setPos (v : Int)
  | getLen
  | setLen (v : Int)
  deriving DecidableEq, Repr

/-- The answer to a request (rule R52): failure with 32-bit information, or success with the data the kind carries
(bytes for a read; a 64-bit value for a seek, a position and a length; neither for the others). -/
inductive Answer where
  | err (e : Word32)
  | ok (bytes : List Byte) (value : Word64)
  deriving DecidableEq, Repr

/-- The reference memory stream: CONTENT and POS (rule R245). -/
structure Rms where
  content : List Byte
  pos : Nat
  deriving DecidableEq, Repr

/-- Any other downstream (rules R78 to R86, log entry 5): its flags now, and the answers it will give, oldest first.
No answer left means that the next request is never answered (rule R86). -/
structure Ext where
  caps : Caps
  answers : List Answer
  deriving DecidableEq, Repr

/-- The downstream bound at reset (parameter DS of table 00-1, rules R52, R261). -/
inductive Downstream where
  | rms (r : Rms)
  | ext (x : Ext)
  deriving DecidableEq, Repr

/-- The registers of the host command port (rules R31, R51). -/
inductive HostReg where
  | cmd
  | arg0
  | arg1
  | res
  | status
  | ioerr
  | cfg
  | caps
  deriving DecidableEq, Repr

/-- What the world outside the core does to it (log entry 9). -/
inductive Event where
  /-- The host writes one register of its port; a write to CMD starts the command (rules R31, R42). -/
  | writeReg (r : HostReg) (v : Word64)
  /-- The host issues a triple (rules R49, R108) and, while the command is BUSY, stores `busyStores` to BUF (rule R265). -/
  | command (cmd : Word32) (arg0 : Word64) (arg1 : Word32) (busyStores : List Host.Cell)
  /-- The host stores a byte to BUF between commands (rules R12, R263). -/
  | storeBuf (addr : Nat) (v : Byte)
  /-- The bound downstream's own state or flags change, by no act of the core (rules R48, R78, R238). -/
  | dsChange (d : Downstream)
  /-- Reset with the strap `cfg_dir` at `strap`, binding the port to `bind`, or to the same downstream (rules R260, R261). -/
  | reset (strap : Direction) (bind : Option Downstream)
  deriving DecidableEq, Repr

/-- The machine. Field by field as INVENTORY.md lists it. -/
structure State where
  /-- CFG.DIR, written by reset only (rule R32). -/
  dir : Direction
  /-- RD_VAL (rule R33). -/
  rdVal : Byte
  /-- RD_CNT (rule R34). -/
  rdCnt : Count
  /-- WR_VAL (rule R36). -/
  wrVal : Byte
  /-- WR_CNT (rule R37). -/
  wrCnt : Count
  /-- CMD (rule R42). -/
  cmd : Word32
  /-- ARG0 (rule R43). -/
  arg0 : Word64
  /-- ARG1 (rule R44). -/
  arg1 : Word32
  /-- RES (rule R45). -/
  res : Word64
  /-- STATUS.CODE, STATUS.EOS, STATUS.STICKY_ERR (rule R46). -/
  status : Status
  /-- IOERR (rule R47). -/
  ioerr : Word32
  /-- The state machine, read as STATUS.BUSY (rule R50). -/
  fsm : Fsm
  /-- BUF_SIZE, the open parameter of table 00-1; no step writes it (log entry 2). -/
  bufSize : Nat
  /-- BUF, in canonical form (rules R70, R71). -/
  buf : List Host.Cell
  /-- The bound downstream (rules R52, R261). -/
  ds : Downstream
  /-- The model's record of requests and answers, oldest first (rule R272, log entry 13). -/
  dsLog : List (Request × Answer)
  /-- The events to come, the next one first (rule R49, log entry 9). -/
  script : List Event
  /-- The model's counter of free bytes drawn (log entry 7). -/
  draws : Nat
  deriving DecidableEq, Repr

/-- Why a step can stop. No failure of a command is here: those are completion codes, next states (rule R231). -/
inductive Fault where
  /-- Raised by any command whose downstream request is never answered, and by a step of a BUSY core: the core is stuck
  (rule R86, log entry 6). Safe. -/
  | unanswered
  /-- Raised by READBIT and WRITEBIT when a count that no command leaves would ask the Bit Order Policy for an index
  outside 0..7 (rule R131, U1, log entry 11). Safe. -/
  | posOutOfRange
  /-- Raised by READBYTE, READ and WRITE when a count that no command leaves would ask the engine for a carry width
  outside 1..7 (rule R138, log entry 11). Safe. -/
  | carryOutOfRange
  /-- Raised by FLUSH when a count that no command leaves would ask for FILL beyond 8 (rule R134, log entry 11). Safe. -/
  | maskOutOfRange
  /-- Raised by a host store to a BUF address at or above BUF_SIZE (rule R71: no such address exists, log entry 16). Safe. -/
  | noSuchBufAddress
  deriving DecidableEq, Repr

/-- Why a step gives an instruction no meaning. -/
inductive Refusal where
  /-- Raised by an arm of `exec` for an instruction that has no meaning yet. Safe. No arm does. -/
  | notModelled (mnemonic : String)
  deriving DecidableEq, Repr

/-- The outcome of a command or of a step. -/
abbrev Result := Host.Outcome State Fault Refusal

/-- STATUS after reset (rule R54): CODE = OK, EOS = 0, STICKY_ERR = 0. -/
def Status.cleared : Status := { code := .ok, eos := false, stickyErr := false }

/-- A fresh in-memory buffer: CONTENT empty and POS = 0 (rule R245). -/
def Rms.fresh : Rms := { content := [], pos := 0 }

/-- The machine right after reset (rules R54, R260). Every register has the value rule R54 gives; the strap, BUF_SIZE,
BUF's contents, the binding, the script, the record and the counter are the model's choices (log entries 1, 2, 3, 4, 7, 9, 13). -/
def State.reset : State where
  dir := Config.resetStrap
  rdVal := 0x00#8
  rdCnt := 0#4
  wrVal := 0x00#8
  wrCnt := 0#4
  cmd := 0#32
  arg0 := 0#64
  arg1 := 0#32
  res := 0#64
  status := Status.cleared
  ioerr := 0#32
  fsm := .idle
  bufSize := Config.resetBufSize
  buf := []
  ds := .rms Rms.fresh
  dsLog := []
  script := []
  draws := 0

end Sys2Proof.Machine
end

