-- ==== Sys2Proof/Machine/Downstream.lean ====
section
/-! DEFINITION. The downstream as the core sees it: the contract of rules R79 to R86, the reference memory stream of
rules R245 to R250, and the external stream whose answers are draws. -/

namespace Sys2Proof.Machine

/-- A position or length as the 64-bit two's complement pattern of rule R13; beyond it the value is free (log entry 8). -/
def quantity (t : Nat) : Word64 := if t < 2 ^ 63 then BitVec.ofNat 64 t else Config.wideQuantity t

/-- The only error of the reference memory stream, "negative position or length" (rule R250). -/
def Rms.negative : Word32 := 1#32

/-- Its `DsRead(n)` (rule R246). -/
def Rms.read (r : Rms) (n : Nat) : Answer × Rms :=
  let s := (r.content.drop r.pos).take n
  (.ok s 0#64, { r with pos := r.pos + s.length })

/-- CONTENT with bytes 0x00 appended up to length `len`, unchanged if it is as long already (rules R247, R249). -/
def padTo (content : List Byte) (len : Nat) : List Byte :=
  content ++ List.replicate (len - content.length) 0x00#8

/-- Its `DsWrite(s)` (rule R247). -/
def Rms.write (r : Rms) (s : List Byte) : Answer × Rms :=
  let padded := padTo r.content r.pos
  (.ok [] 0#64, { content := padded.take r.pos ++ s ++ padded.drop (r.pos + s.length), pos := r.pos + s.length })

/-- The base of a seek (rule R248). -/
def Rms.seekBase (r : Rms) : Origin → Nat
  | .begin => 0
  | .current => r.pos
  | .fromEnd => r.content.length

/-- Its `DsSeek(off, origin)` (rule R248). -/
def Rms.seek (r : Rms) (off : Int) (origin : Origin) : Answer × Rms :=
  let t := (r.seekBase origin : Int) + off
  if t < 0 then (.err Rms.negative, r) else (.ok [] (quantity t.toNat), { r with pos := t.toNat })

/-- Its `DsSetPos(v)` (rule R248). -/
def Rms.setPos (r : Rms) (v : Int) : Answer × Rms :=
  if v < 0 then (.err Rms.negative, r) else (.ok [] 0#64, { r with pos := v.toNat })

/-- Its `DsSetLen(v)` (rule R249). -/
def Rms.setLen (r : Rms) (v : Int) : Answer × Rms :=
  if v < 0 then (.err Rms.negative, r)
  else (.ok [] 0#64, { r with content := (padTo r.content v.toNat).take v.toNat })

/-- The reference memory stream answers every request (rules R246 to R249). -/
def Rms.respond (r : Rms) : Request → Answer × Rms
  | .read n => r.read n
  | .write s => r.write s
  | .flush => (.ok [] 0#64, r)
  | .seek off origin => r.seek off origin
  | .getPos => (.ok [] (quantity r.pos), r)
  | .setPos v => r.setPos v
  | .getLen => (.ok [] (quantity r.content.length), r)
  | .setLen v => r.setLen v

/-- Its capability flags (rule R245). -/
def Rms.caps : Caps := { canRead := true, canWrite := true, canSeek := true }

/-- A drawn answer cut to what the request's kind may carry (rules R79 to R83, log entry 5): at most n bytes for a read,
a value for a seek, a position and a length, neither for the others; a failure stays as it is (rule R85). -/
def Answer.shapedFor : Request → Answer → Answer
  | _, .err e => .err e
  | .read n, .ok bytes _ => .ok (bytes.take n) 0#64
  | .seek _ _, .ok _ v => .ok [] v
  | .getPos, .ok _ v => .ok [] v
  | .getLen, .ok _ v => .ok [] v
  | .write _, .ok _ _ => .ok [] 0#64
  | .flush, .ok _ _ => .ok [] 0#64
  | .setPos _, .ok _ _ => .ok [] 0#64
  | .setLen _, .ok _ _ => .ok [] 0#64

/-- The external stream's answer; none when the request is never answered (rule R86). -/
def Ext.respond (x : Ext) (q : Request) : Option (Answer × Ext) :=
  match x.answers with
  | [] => none
  | a :: rest => some (a.shapedFor q, { x with answers := rest })

/-- The bound downstream's answer to a request, with the downstream after it (rule R52). -/
def Downstream.respond (d : Downstream) (q : Request) : Option (Answer × Downstream) :=
  match d with
  | .rms r => some ((r.respond q).1, .rms (r.respond q).2)
  | .ext x =>
    match x.respond q with
    | none => none
    | some (a, x') => some (a, .ext x')

/-- `DsCaps()`, a continuous input (rules R48, R84). -/
def Downstream.caps : Downstream → Caps
  | .rms _ => Rms.caps
  | .ext x => x.caps

/-- A change of the bound downstream's own state; the binding itself is fixed from reset to reset (rule R261), so a
state of another kind of stream is no state of this one and changes nothing (log entry 17). -/
def Downstream.changeTo : Downstream → Downstream → Downstream
  | .rms _, .rms r => .rms r
  | .ext _, .ext x => .ext x
  | .rms r, .ext _ => .rms r
  | .ext x, .rms _ => .ext x

end Sys2Proof.Machine
end

