-- ==== Sys2Proof/Machine/Flags.lean ====
section
/-! DEFINITION. Every flag the spec gives: CODE, EOS, STICKY_ERR and BUSY in STATUS, the CFG and CAPS words, and what the
host reads at its port. -/

namespace Sys2Proof.Machine

/-- The numbers of table 60-1 (rule R220). -/
def Code.bits : Code → BitVec 3
  | .ok => 0#3
  | .invalidArgument => 1#3
  | .notSupported => 2#3
  | .ioError => 3#3
  | .illegalCommand => 4#3
  | .bufferRange => 5#3

/-- The flags after a command completes (rules R20, R46, R55, R225): CODE and EOS are written, STICKY_ERR is only set. -/
def Status.completed (st : Status) (code : Code) (eos : Bool) : Status :=
  { code := code, eos := eos, stickyErr := st.stickyErr || decide (code ≠ .ok) }

/-- STATUS.BUSY (rule R46). -/
def Fsm.busyBit : Fsm → BitVec 1
  | .idle => 0#1
  | .busy => 1#1

/-- STATUS as the host reads it (rule R46): CODE in bits 2..0, EOS 3, STICKY_ERR 4, BUSY 5, the rest 0. -/
def State.statusWord (s : State) : Word32 :=
  (0#26 ++ s.fsm.busyBit ++ BitVec.ofBool s.status.stickyErr ++ BitVec.ofBool s.status.eos ++ s.status.code.bits : BitVec 32)

/-- The encoding of the direction (rule R32). -/
def directionBit : Direction → BitVec 1
  | .msbFirst => 0#1
  | .lsbFirst => 1#1

/-- CFG as the host reads it (rule R32): DIR in bit 0, the rest 0. -/
def State.cfgWord (s : State) : Word32 := (0#31 ++ directionBit s.dir : BitVec 32)

/-- The three flags as CAPS[2:0] (rule R48). -/
def Caps.bits (c : Caps) : BitVec 3 :=
  (BitVec.ofBool c.canSeek ++ BitVec.ofBool c.canWrite ++ BitVec.ofBool c.canRead : BitVec 3)

/-- CAPS as the host reads it: a live view of the bound downstream, the rest 0 (rule R48). -/
def State.capsWord (s : State) : Word32 := (0#29 ++ s.ds.caps.bits : BitVec 32)

/-- What the host reads at its port (rule R31): CMD, ARG0 and ARG1 are not readable, a 32-bit register reads zero-extended. -/
def State.readReg (s : State) : HostReg → Option Word64
  | .res => some s.res
  | .status => some (s.statusWord.setWidth 64)
  | .ioerr => some (s.ioerr.setWidth 64)
  | .cfg => some (s.cfgWord.setWidth 64)
  | .caps => some (s.capsWord.setWidth 64)
  | .cmd => none
  | .arg0 => none
  | .arg1 => none

end Sys2Proof.Machine
end

