-- ==== Sys2Proof/Machine/Operands.lean ====
section
/-! DEFINITION. The operand forms of rule R101: the byte count n, the BUF address base, the signed value v, the origin,
and the range check of READ and WRITE. -/

namespace Sys2Proof.Machine

/-- `n = ARG0` as an unsigned 64-bit count (rule R101). -/
def State.count (s : State) : Nat := s.arg0.toNat

/-- `base = ARG1` as an unsigned 32-bit BUF address (rule R101). -/
def State.base (s : State) : Nat := s.arg1.toNat

/-- `v = s64(ARG0)` (rules R17, R101). -/
def State.signedArg (s : State) : Int := s.arg0.toInt

/-- Table 30-2: the origin an ORG field names; ORG = 3 names none. -/
def originOf (org : BitVec 2) : Option Origin :=
  match org.toNat with
  | 0 => some .begin
  | 1 => some .current
  | 2 => some .fromEnd
  | _ => none

/-- `base + n > BUF_SIZE` over unbounded integers (rules R71, R229). -/
def State.outOfBuf (s : State) : Bool := decide (s.base + s.count > s.bufSize)

/-- The address lies in the range `[base, base+n)` that ARG1 and ARG0 name (rules R53, R265). -/
def State.inRange (s : State) (a : Nat) : Bool := decide (s.base ≤ a) && decide (a < s.base + s.count)

/-- Bits are pending on either side (rule R193, D13). -/
def State.bitsPending (s : State) : Bool := decide (s.rdCnt ≠ 0#4) || decide (s.wrCnt ≠ 0#4)

end Sys2Proof.Machine
end

