-- ==== Sys2Proof/Machine/Ops.lean ====
section
/-! DEFINITION. The named operations over BUF, the registers and the downstream port, and completing a command, which is
this hardware's form of taking an exception (rules R20, R226, R231). -/

namespace Sys2Proof.Machine

/-! ### BUF -/

/-- `BUF[a]` (rule R18). -/
def Memory.get : List Host.Cell → Nat → Byte
  | [], _ => Config.unlistedByte
  | (b, v) :: rest, a => if b = a then v else Memory.get rest a

/-- The cell of address `a` put in front, or left out when it holds what an unlisted address reads as. -/
def Memory.cons (a : Nat) (v : Byte) (rest : List Host.Cell) : List Host.Cell :=
  if v = Config.unlistedByte then rest else (a, v) :: rest

/-- BUF after `BUF[a] <- v`, kept in canonical form. -/
def Memory.set : List Host.Cell → Nat → Byte → List Host.Cell
  | [], a, v => Memory.cons a v []
  | (b, w) :: rest, a, v =>
    if a < b then Memory.cons a v ((b, w) :: rest)
    else if a = b then Memory.cons a v rest
    else (b, w) :: Memory.set rest a v

/-- The canonical form: addresses strictly rising, from `lo` up, and no cell that holds what an unlisted one reads as. -/
def Memory.wfFrom : Nat → List Host.Cell → Bool
  | _, [] => true
  | lo, (a, v) :: rest => decide (lo ≤ a) && decide (v ≠ Config.unlistedByte) && Memory.wfFrom (a + 1) rest

/-- BUF is in canonical form. -/
def Memory.wf (m : List Host.Cell) : Bool := Memory.wfFrom 0 m

/-- `MemRead(a, n)` (rule R18). -/
def Memory.read (m : List Host.Cell) (a n : Nat) : List Byte := (List.range n).map (fun i => Memory.get m (a + i))

/-- `MemWrite(a, n, s)` with `n = |s|` (rule R18). -/
def Memory.write : List Host.Cell → Nat → List Byte → List Host.Cell
  | m, _, [] => m
  | m, a, v :: rest => Memory.write (Memory.set m a v) (a + 1) rest

/-! ### Register writes -/

/-- RD_VAL <- v; RD_CNT <- c. -/
def State.setRd (s : State) (v : Byte) (c : Count) : State := { s with rdVal := v, rdCnt := c }

/-- WR_VAL <- w; WR_CNT <- c. -/
def State.setWr (s : State) (w : Byte) (c : Count) : State := { s with wrVal := w, wrCnt := c }

/-- BUF replaced as a whole. -/
def State.setBuf (s : State) (m : List Host.Cell) : State := { s with buf := m }

/-- IOERR <- e (rule R47). -/
def State.setIoerr (s : State) (e : Word32) : State := { s with ioerr := e }

/-- ARG0 <- a0; ARG1 <- a1 (rules R43, R44). -/
def State.setArgs (s : State) (a0 : Word64) (a1 : Word32) : State := { s with arg0 := a0, arg1 := a1 }

/-- The next `n` free bytes (log entry 7). -/
def State.freeBytes (s : State) (n : Nat) : List Byte := (List.range n).map (fun i => Config.freeByte (s.draws + i))

/-- `n` free bytes have been drawn. -/
def State.drew (s : State) (n : Nat) : State := { s with draws := s.draws + n }

/-- The downstream after a request, and the request with its answer at the end of the record. -/
def State.heard (s : State) (q : Request) (a : Answer) (d : Downstream) : State :=
  { s with ds := d, dsLog := s.dsLog ++ [(q, a)] }

/-! ### Accepting and completing a command -/

/-- The core accepts a command: CMD <- c, IDLE to BUSY (rules R42, R50). -/
def State.accept (s : State) (c : Word32) : State := { s with cmd := c, fsm := .busy }

/-- `finish(code, res, eos)` (rule R20): RES, CODE, EOS and STICKY_ERR written, back to IDLE (rule R50). -/
def State.finish (s : State) (code : Code) (res : Word64) (eos : Bool) : State :=
  { s with res := res, status := s.status.completed code eos, fsm := .idle }

/-- `raise X` for X other than IO_ERROR (rule R20): RES = 0, EOS = 0. -/
def State.fail (s : State) (code : Code) : State := s.finish code 0#64 false

/-- `raise IO_ERROR(e)` (rules R20, R47, R223). -/
def State.failIo (s : State) (e : Word32) : State := (s.setIoerr e).finish .ioError 0#64 false

/-! ### The downstream port -/

/-- One downstream transaction (rule R52): the state with the answer recorded, or stuck when it is never answered
(rule R86). -/
def ask (q : Request) (s : State) (k : State → Answer → Result) : Result :=
  match s.ds.respond q with
  | none => .fault .unanswered
  | some (a, d) => k (s.heard q a d) a

/-- One downstream transaction of a command that changes nothing of the core when it fails (rules R85, R223, R226). -/
def request (q : Request) (s : State) (k : State → List Byte → Word64 → Result) : Result :=
  ask q s fun t a =>
    match a with
    | .err e => .next (t.failIo e)
    | .ok bytes v => k t bytes v

/-! ### Reset -/

/-- The reset event (rules R54, R260 to R262): the strap is sampled, the port is bound, every register takes its reset
value, nothing is sent. BUF, the downstream's own state, the host's script and the model's own fields are not reset. -/
def State.hardReset (s : State) (strap : Direction) (bind : Option Downstream) : State :=
  { s with
    dir := strap
    rdVal := 0x00#8
    rdCnt := 0#4
    wrVal := 0x00#8
    wrCnt := 0#4
    cmd := 0#32
    arg0 := 0#64
    arg1 := 0#32
    res := 0#64
    status := Status.cleared
    ioerr := 0#32
    fsm := .idle
    ds := bind.getD s.ds }

end Sys2Proof.Machine
end

