-- ==== Sys2Proof/Machine/ReadPath.lean ====
section
/-! DEFINITION. The read path (spec/41_read_path.md): READBIT, READBYTE, READ. -/

namespace Sys2Proof.Machine

/-- The logical index of the next unread bit when `p` bits of the byte are unread, `p` in 1..8 (rules R35, R151). -/
def readIndex (p : Nat) : Option Nat := if 1 ≤ p ∧ p ≤ 8 then some (8 - p) else none

/-- The tail of rule R151: deliver the next of the `p` unread bits of `v`, and keep `p - 1` of them. -/
def deliverBit (v : Byte) (p : Nat) (s : State) : Result :=
  match (readIndex p).bind (pos s.dir) with
  | none => .fault .posOutOfRange
  | some ph => .next ((s.setRd v (BitVec.ofNat 4 (p - 1))).finish .ok ((getBit v ph).setWidth 64) false)

/-- READBIT (rule R151). -/
def execReadbit (s : State) : Result :=
  if s.rdCnt = 0#4 then
    request (.read 1) s fun t bytes _ =>
      match bytes with
      | [] => .next (t.finish .ok Config.eosSentinel true)
      | v :: _ => deliverBit v 8 t
  else deliverBit s.rdVal s.rdCnt.toNat s

/-- READBYTE (rule R152). -/
def execReadbyte (s : State) : Result :=
  request (.read 1) s fun t bytes _ =>
    match bytes with
    | [] => .next (t.finish .ok Config.eosSentinel true)
    | v :: _ =>
      if t.rdCnt = 0#4 then .next (t.finish .ok (v.setWidth 64) false)
      else
        match splice t.dir t.rdCnt.toNat t.rdVal [v] with
        | none => .fault .carryOutOfRange
        | some (out, c) => .next ((t.setRd c t.rdCnt).finish .ok ((out.headD 0x00#8).setWidth 64) false)

/-- READ-ALIGNED (rule R155): the bytes land in BUF as they came. -/
def readAligned (bytes : List Byte) (t : State) : Result :=
  .next ((t.setBuf (Memory.write t.buf t.base bytes)).finish .ok (BitVec.ofNat 64 bytes.length) false)

/-- READ-UNALIGNED (rule R156): the bytes go through the engine; with none the pending bits stay (D17). -/
def readUnaligned (bytes : List Byte) (t : State) : Result :=
  match bytes with
  | [] => .next (t.finish .ok 0#64 false)
  | _ :: _ =>
    match splice t.dir t.rdCnt.toNat t.rdVal bytes with
    | none => .fault .carryOutOfRange
    | some (out, c) =>
      .next (((t.setBuf (Memory.write t.buf t.base out)).setRd c t.rdCnt).finish .ok (BitVec.ofNat 64 bytes.length) false)

/-- A READ the downstream failed (rule R158, U8): BUF[base..base+n-1] holds any value, the accumulator is unchanged. -/
def readFailed (e : Word32) (t : State) : State :=
  ((t.setBuf (Memory.write t.buf t.base (t.freeBytes t.count))).drew t.count).failIo e

/-- READ (rule R154). -/
def execRead (s : State) : Result :=
  if s.outOfBuf then .next (s.fail .bufferRange)
  else if s.count = 0 then .next (s.finish .ok 0#64 false)
  else
    ask (.read s.count) s fun t a =>
      match a with
      | .err e => .next (readFailed e t)
      | .ok bytes _ => if t.rdCnt = 0#4 then readAligned bytes t else readUnaligned bytes t

end Sys2Proof.Machine
end

