-- ==== Sys2Proof/Machine/StreamControl.lean ====
section
/-! DEFINITION. Flush, seek and the pass-through commands (spec/43_stream_control.md): FLUSH, SEEK, GETPOS, SETPOS,
GETLEN, SETLEN, GETCAPS. -/

namespace Sys2Proof.Machine

/-- The end of FLUSH (rules R81, R190): the downstream is always flushed. -/
def flushDownstream (s : State) : Result := request .flush s fun t _ _ => .next (t.finish .ok 0#64 false)

/-- FLUSH (rule R190). The emptied accumulator is committed before the downstream flush (rule R191). -/
def execFlush (s : State) : Result :=
  if s.wrCnt = 0#4 then flushDownstream s
  else if s.wrCnt.toNat ≤ 8 then
    request (.write [s.wrVal &&& fill s.dir s.wrCnt.toNat]) s fun t _ _ => flushDownstream (t.setWr 0x00#8 0#4)
  else .fault .maskOutOfRange

/-- SEEK (rules R192, R193); ORG = 3 is an illegal command (rule R104, log entry 15). -/
def execSeek (org : BitVec 2) (s : State) : Result :=
  match originOf org with
  | none => .next (s.fail .illegalCommand)
  | some origin =>
    if origin = .current ∧ s.bitsPending then .next (s.fail .notSupported)
    else request (.seek s.signedArg origin) s fun t _ p => .next (t.finish .ok p false)

/-- GETPOS (rule R194). -/
def execGetpos (s : State) : Result := request .getPos s fun t _ v => .next (t.finish .ok v false)

/-- SETPOS (rule R195). -/
def execSetpos (s : State) : Result := request (.setPos s.signedArg) s fun t _ _ => .next (t.finish .ok 0#64 false)

/-- GETLEN (rule R196). -/
def execGetlen (s : State) : Result := request .getLen s fun t _ v => .next (t.finish .ok v false)

/-- SETLEN (rule R197). -/
def execSetlen (s : State) : Result := request (.setLen s.signedArg) s fun t _ _ => .next (t.finish .ok 0#64 false)

/-- GETCAPS (rule R198): no request, never fails. -/
def execGetcaps (s : State) : Result := .next (s.finish .ok (s.ds.caps.bits.setWidth 64) false)

end Sys2Proof.Machine
end

