-- ==== Sys2Proof/Machine/WritePath.lean ====
section
/-! DEFINITION. The write path (spec/42_write_path.md): WRITEBIT, WRITEBITI, WRITE. -/

namespace Sys2Proof.Machine

/-- The byte the next bit is placed into: a fresh zero byte when none is placed (rule R170). -/
def State.assembling (s : State) : Byte := if s.wrCnt = 0#4 then 0x00#8 else s.wrVal

/-- Place a bit in the byte being assembled (rules R133, R170): a 0 only advances the count. -/
def placeBit (w : Byte) (ph : Nat) (b : Bool) : Byte := if b then setBit w ph else w

/-- WRITEBIT-BODY (rule R170): place the bit; the eighth sends the full byte unshifted and empties the accumulator. -/
def writeBitBody (b : Bool) (s : State) : Result :=
  match pos s.dir s.wrCnt.toNat with
  | none => .fault .posOutOfRange
  | some ph =>
    let w := placeBit s.assembling ph b
    if s.wrCnt.toNat + 1 = 8 then
      request (.write [w]) s fun t _ _ => .next ((t.setWr 0x00#8 0#4).finish .ok 0#64 false)
    else .next ((s.setWr w (s.wrCnt + 1#4)).finish .ok 0#64 false)

/-- WRITEBIT b (rule R170). -/
def execWritebit (b : Bool) (s : State) : Result := writeBitBody b s

/-- WRITEBITI v (rule R171): only v = 0 is accepted. -/
def execWritebiti (s : State) : Result :=
  if s.signedArg ≠ 0 then .next (s.fail .invalidArgument) else writeBitBody false s

/-- The end of an aligned WRITE (rule R172): one `DsWrite` of the bytes, the accumulator unchanged. -/
def sendAligned (out : List Byte) (s : State) : Result := request (.write out) s fun t _ _ => .next (t.finish .ok 0#64 false)

/-- The end of an unaligned WRITE (rule R173): one `DsWrite` of the bytes, then the raw carry byte is kept as WR_VAL. -/
def sendUnaligned (out : List Byte) (carry : Byte) (s : State) : Result :=
  request (.write out) s fun t _ _ =>
    .next ((t.setWr (fromRaw t.dir t.wrCnt.toNat carry) t.wrCnt).finish .ok 0#64 false)

/-- WRITE-UNALIGNED (rule R173). -/
def writeUnaligned (src : List Byte) (s : State) : Result :=
  match splice s.dir s.wrCnt.toNat (toRaw s.dir s.wrCnt.toNat s.wrVal) src with
  | none => .fault .carryOutOfRange
  | some (out, c) => sendUnaligned out c s

/-- WRITE (rule R172). -/
def execWrite (s : State) : Result :=
  if s.outOfBuf then .next (s.fail .bufferRange)
  else
    let src := Memory.read s.buf s.base s.count
    if s.wrCnt = 0#4 then sendAligned src s else writeUnaligned src s

/-- A WRITE whose range the host stores to while it is BUSY (rules R56, R97, R265, U9; log entry 10): every one of the `n`
bytes sent is any value, and so is the tail kept pending; all else is as in WRITE. -/
def writeRaced (s : State) : Result :=
  if s.outOfBuf then .next (s.fail .bufferRange)
  else if s.wrCnt = 0#4 then sendAligned (s.freeBytes s.count) (s.drew s.count)
  else if s.wrCnt.toNat ≤ 7 then
    sendUnaligned (s.freeBytes s.count) (Config.freeByte (s.draws + s.count)) (s.drew (s.count + 1))
  else .fault .carryOutOfRange

end Sys2Proof.Machine
end

