-- ==== Sys2Proof/Machine/Dispatch.lean ====
section
/-! DEFINITION. The Bit Stream Facade's decode of a command into its meaning (rule R50), one arm per constructor. -/

namespace Sys2Proof.Machine

def exec (i : Instr) (s : State) : Host.Outcome State Fault Refusal :=
  match i with
  | .readbit => Sys2Proof.Machine.execReadbit s
  | .readbyte => Sys2Proof.Machine.execReadbyte s
  | .read => Sys2Proof.Machine.execRead s
  | .writebit b => Sys2Proof.Machine.execWritebit b s
  | .writebiti => Sys2Proof.Machine.execWritebiti s
  | .write => Sys2Proof.Machine.execWrite s
  | .flush => Sys2Proof.Machine.execFlush s
  | .seek org => Sys2Proof.Machine.execSeek org s
  | .getpos => Sys2Proof.Machine.execGetpos s
  | .setpos => Sys2Proof.Machine.execSetpos s
  | .getlen => Sys2Proof.Machine.execGetlen s
  | .setlen => Sys2Proof.Machine.execSetlen s
  | .getcaps => Sys2Proof.Machine.execGetcaps s

end Sys2Proof.Machine
end

