-- ==== Sys2Proof/Machine/HostPort.lean ====
section
/-! DEFINITION. The host's side: issuing a command word, racing BUF stores, single register writes, BUF stores, changes of
the downstream, reset (rules R12, R31, R42, R51, R260, R265). -/

namespace Sys2Proof.Machine

/-- A write to CMD of an IDLE core (rules R42, R50): the word is accepted, decoded and performed; an illegal word
completes at once with ILLEGAL_COMMAND, before any other check (rules R104, R224, R227). -/
def runCommand (w : Word32) (s : State) : Result :=
  match decode w with
  | .error _ => .next ((s.accept w).fail .illegalCommand)
  | .ok i => exec i (s.accept w)

/-- Some store goes to the range the command names (rules R53, R265). -/
def State.inRangeAny (s : State) (stores : List Host.Cell) : Bool := stores.any fun c => s.inRange c.1

/-- The command while the stores race with it (rules R97, R265): a store in the range of a WRITE frees what it sends; no
other command reads BUF (rule R53). -/
def runRaced (w : Word32) (stores : List Host.Cell) (s : State) : Result :=
  if decode w = .ok .write ∧ s.inRangeAny stores then writeRaced (s.accept w) else runCommand w s

/-- What racing stores leave in BUF (rule R265, U9): any value in the range of a READ, elsewhere the byte stored. -/
def raceAfter (w : Word32) : List Host.Cell → State → State
  | [], s => s
  | (a, v) :: rest, s =>
    if decode w = .ok .read ∧ s.inRange a then
      raceAfter w rest ((s.setBuf (Memory.write s.buf a (s.freeBytes 1))).drew 1)
    else raceAfter w rest (s.setBuf (Memory.set s.buf a v))

/-- Every store goes to a BUF address that exists (rule R71). -/
def State.bufHolds (s : State) (stores : List Host.Cell) : Bool := stores.all fun c => decide (c.1 < s.bufSize)

/-- A command during which the host stores to BUF (rules R56, R97, R265). -/
def runRacing (w : Word32) (stores : List Host.Cell) (s : State) : Result :=
  if s.bufHolds stores then
    match runRaced w stores s with
    | .next t => .next (raceAfter w stores t)
    | .fault f => .fault f
    | .refused r => .refused r
  else .fault .noSuchBufAddress

/-- One host write to one register of the port (rules R31, R32, R42, R46): CMD starts the command it encodes; the
read-only registers ignore it. A register narrower than 64 bits takes the low bits. -/
def writeHostReg (r : HostReg) (v : Word64) (s : State) : Result :=
  match r with
  | .cmd => runCommand (v.setWidth 32) s
  | .arg0 => .next (s.setArgs v s.arg1)
  | .arg1 => .next (s.setArgs s.arg0 (v.setWidth 32))
  | .res => .next s
  | .status => .next s
  | .ioerr => .next s
  | .cfg => .next s
  | .caps => .next s

/-- One event, of an IDLE core. -/
def perform (e : Event) (s : State) : Result :=
  match e with
  | .writeReg r v => writeHostReg r v s
  | .command w a0 a1 stores => runRacing w stores (s.setArgs a0 a1)
  | .storeBuf a v => if a < s.bufSize then .next (s.setBuf (Memory.set s.buf a v)) else .fault .noSuchBufAddress
  | .dsChange d => .next { s with ds := s.ds.changeTo d }
  | .reset strap bind => .next (s.hardReset strap bind)

/-- The next event of an IDLE core is taken from the script; with none left the core waits in IDLE (rules R260, R272). -/
def stepIdle (s : State) : Result :=
  match s.script with
  | [] => .next s
  | e :: rest => perform e { s with script := rest }

/-- A BUSY core has no step (rule R86): a host write waits (rule R42), only reset ends it (rule R260, log entry 14). -/
def stepBusy (s : State) : Result :=
  match s.script with
  | .reset strap bind :: rest => .next ({ s with script := rest }.hardReset strap bind)
  | _ => .fault .unanswered

/-- The host writes this command word to CMD next, ARG0 and ARG1 as they stand; bits at and above `nbits` are 0. -/
def commandEvent (nbits w : Nat) : Event := .writeReg .cmd (BitVec.ofNat 64 (w % 2 ^ nbits))

end Sys2Proof.Machine
end

