-- ==== Sys2Proof/Machine/Step.lean ====
section
/-! DEFINITION. One step of the machine (rule R50), and placing a command where the next step takes it. -/

namespace Sys2Proof.Machine

/-- One step: an IDLE core takes the next event of the script, a BUSY core is stuck. -/
def step (s : State) : Host.Outcome State Fault Refusal :=
  match s.fsm with
  | .idle => stepIdle s
  | .busy => stepBusy s

/-- The state with a command word written to CMD as the very next event, ARG0 and ARG1 as they stand (log entry 9). -/
def State.withFetchWord (s : State) (nbits w : Nat) : State :=
  { s with fsm := .idle, script := commandEvent nbits w :: s.script }

end Sys2Proof.Machine
end

