-- ==== Sys2Proof/Machine/Assembler.lean ====
section
/-! DEFINITION. The assembler syntax of rules R106 to R108: a line of text, the line it stands for, the triple the line
assembles to, and the script of a host program. -/

namespace Sys2Proof.Machine

/-- One assembly line (rule R106), the pseudo-instruction REWIND included (rule R107). -/
inductive AsmLine where
  | readbit
  | readbyte
  | read (base n : Nat)
  | writebit (b : Bool)
  | writebiti (v : Int)
  | write (base n : Nat)
  | flush
  | seek (off : Int) (origin : Origin)
  | getpos
  | setpos (v : Int)
  | getlen
  | setlen (v : Int)
  | getcaps
  | rewind
  deriving DecidableEq, Repr

/-- A (CMD, ARG0, ARG1) triple (rules R49, R106). -/
structure Triple where
  cmd : Word32
  arg0 : Word64
  arg1 : Word32
  deriving DecidableEq, Repr

/-- The ORG field of an origin (table 30-2). -/
def orgBits : Origin → BitVec 2
  | .begin => 0#2
  | .current => 1#2
  | .fromEnd => 2#2

/-- ARG0 of a signed operand, a 64-bit two's-complement pattern (rule R106). -/
def pattern64 (v : Int) : Word64 := BitVec.ofInt 64 v

/-- The triple a line assembles to (rules R106, R107): operands the command has not are 0. -/
def assemble : AsmLine → Triple
  | .readbit => ⟨encode .readbit, 0#64, 0#32⟩
  | .readbyte => ⟨encode .readbyte, 0#64, 0#32⟩
  | .read base n => ⟨encode .read, BitVec.ofNat 64 n, BitVec.ofNat 32 base⟩
  | .writebit b => ⟨encode (.writebit b), 0#64, 0#32⟩
  | .writebiti v => ⟨encode .writebiti, pattern64 v, 0#32⟩
  | .write base n => ⟨encode .write, BitVec.ofNat 64 n, BitVec.ofNat 32 base⟩
  | .flush => ⟨encode .flush, 0#64, 0#32⟩
  | .seek off origin => ⟨encode (.seek (orgBits origin)), pattern64 off, 0#32⟩
  | .getpos => ⟨encode .getpos, 0#64, 0#32⟩
  | .setpos v => ⟨encode .setpos, pattern64 v, 0#32⟩
  | .getlen => ⟨encode .getlen, 0#64, 0#32⟩
  | .setlen v => ⟨encode .setlen, pattern64 v, 0#32⟩
  | .getcaps => ⟨encode .getcaps, 0#64, 0#32⟩
  | .rewind => ⟨encode (.seek (orgBits .begin)), 0#64, 0#32⟩

/-- The host issues a triple and touches nothing of BUF meanwhile (rule R49). -/
def Triple.event (t : Triple) : Event := .command t.cmd t.arg0 t.arg1 []

/-- A host program is a list of assembled triples executed in order (rule R108). -/
def programScript (lines : List AsmLine) : List Event := lines.map fun l => (assemble l).event

/-- The value of a digit character, decimal or hexadecimal of either case (log entry 19). -/
def digitValue (c : Char) : Option Nat :=
  let k := c.toNat
  if 48 ≤ k ∧ k ≤ 57 then some (k - 48)
  else if 97 ≤ k ∧ k ≤ 102 then some (k - 87)
  else if 65 ≤ k ∧ k ≤ 70 then some (k - 55)
  else none

/-- Digits of a base, most significant first, after a value already read. -/
def readDigits (radix : Nat) : Nat → List Char → Option Nat
  | acc, [] => some acc
  | acc, c :: rest =>
    match digitValue c with
    | none => none
    | some d => if d < radix then readDigits radix (acc * radix + d) rest else none

/-- An unsigned number, decimal or `0x` hexadecimal (rule R106). -/
def readNumber : List Char → Option Nat
  | [] => none
  | '0' :: 'x' :: c :: rest => readDigits 16 0 (c :: rest)
  | cs => readDigits 10 0 cs

/-- A number with a leading `-` allowed, for v and off (rule R106). -/
def readSigned : List Char → Option Int
  | '-' :: rest => (readNumber rest).map fun n => -(n : Int)
  | cs => (readNumber cs).map fun n => (n : Int)

/-- The operands of a line, separated by commas, blanks dropped (rule R106). -/
def splitOperands : List Char → List (List Char)
  | [] => [[]]
  | c :: rest =>
    match splitOperands rest with
    | [] => [[c]]
    | op :: ops => if c = ',' then [] :: op :: ops else if c = ' ' then op :: ops else (c :: op) :: ops

/-- The origin names of rule R106. -/
def readOrigin (cs : List Char) : Option Origin :=
  if cs = ['B', 'E', 'G', 'I', 'N'] then some .begin
  else if cs = ['C', 'U', 'R', 'R', 'E', 'N', 'T'] then some .current
  else if cs = ['E', 'N', 'D'] then some .fromEnd
  else none

/-- The operand b of WRITEBIT, 0 or 1 (rule R106). -/
def readBool (cs : List Char) : Option Bool :=
  match readNumber cs with
  | some 0 => some false
  | some 1 => some true
  | _ => none

/-- The commands with no operand (rules R106, R107). -/
def bareLine (m : List Char) : Option AsmLine :=
  if m = ['R', 'E', 'A', 'D', 'B', 'I', 'T'] then some .readbit
  else if m = ['R', 'E', 'A', 'D', 'B', 'Y', 'T', 'E'] then some .readbyte
  else if m = ['F', 'L', 'U', 'S', 'H'] then some .flush
  else if m = ['G', 'E', 'T', 'P', 'O', 'S'] then some .getpos
  else if m = ['G', 'E', 'T', 'L', 'E', 'N'] then some .getlen
  else if m = ['G', 'E', 'T', 'C', 'A', 'P', 'S'] then some .getcaps
  else if m = ['R', 'E', 'W', 'I', 'N', 'D'] then some .rewind
  else none

/-- The commands with one operand (rule R106). -/
def unaryLine (m a : List Char) : Option AsmLine :=
  if m = ['W', 'R', 'I', 'T', 'E', 'B', 'I', 'T'] then (readBool a).map .writebit
  else if m = ['W', 'R', 'I', 'T', 'E', 'B', 'I', 'T', 'I'] then (readSigned a).map .writebiti
  else if m = ['S', 'E', 'T', 'P', 'O', 'S'] then (readSigned a).map .setpos
  else if m = ['S', 'E', 'T', 'L', 'E', 'N'] then (readSigned a).map .setlen
  else none

/-- The commands with two operands (rule R106). -/
def binaryLine (m a b : List Char) : Option AsmLine :=
  if m = ['R', 'E', 'A', 'D'] then (readNumber a).bind fun base => (readNumber b).map (.read base)
  else if m = ['W', 'R', 'I', 'T', 'E'] then (readNumber a).bind fun base => (readNumber b).map (.write base)
  else if m = ['S', 'E', 'E', 'K'] then (readSigned a).bind fun off => (readOrigin b).map (.seek off)
  else none

/-- A line of text (rule R106): the mnemonic first, then its operands separated by commas. -/
def parseLine (text : List Char) : Option AsmLine :=
  let m := text.takeWhile (fun c => decide (c ≠ ' '))
  match splitOperands (text.dropWhile (fun c => decide (c ≠ ' '))) with
  | [[]] => bareLine m
  | [a] => unaryLine m a
  | [a, b] => binaryLine m a b
  | _ => none

end Sys2Proof.Machine
end

