-- ==== Sys2Proof/Safety.lean ====
section
/-! DEFINITION. What counts as a good state and what the statements speak of: the invariant, the two shapes of a completed
command, the logical bit stream and the bits each command delivers or appends, and runs of write commands. -/

namespace Sys2Proof.Machine

/-! ### The invariant -/

/-- The counts are in the range every command boundary has (rules R34, R37). -/
abbrev State.countsInRange (s : State) : Prop := s.rdCnt.toNat ≤ 7 ∧ s.wrCnt.toNat ≤ 7

/-- WR_VAL is canonical: every bit at a logical index `≥ WR_CNT` is 0 (rule R36). -/
abbrev State.wrCanonical (s : State) : Prop := s.wrVal &&& ~~~(fill s.dir s.wrCnt.toNat) = 0x00#8

/-- BUF is in canonical form and lists no address that does not exist, and BUF_SIZE is a size (rules R13, R71). -/
abbrev State.bufGood (s : State) : Prop :=
  Memory.wf s.buf = true ∧ (∀ c ∈ s.buf, c.1 < s.bufSize) ∧ s.bufSize ≤ Config.maxBufSize

/-- What a command finds of the registers and BUF when it starts, the core already BUSY or not (rules R34, R36, R37, R71). -/
abbrev State.good (s : State) : Prop := s.countsInRange ∧ s.wrCanonical ∧ s.bufGood

/-- What holds at every command boundary. -/
abbrev State.Inv (s : State) : Prop := s.countsInRange ∧ s.wrCanonical ∧ s.bufGood ∧ s.fsm = .idle

/-! ### The shape of a completed command -/

/-- A command that completed with OK: RES and EOS as given, CODE = OK, STICKY_ERR as before, IDLE (rules R20, R50, R55). -/
def okAfter (s : State) (res : Word64) (eos : Bool) : State :=
  { s with res := res, status := { code := .ok, eos := eos, stickyErr := s.status.stickyErr }, fsm := .idle }

/-- A command that completed with a failure code: RES = 0, EOS = 0, STICKY_ERR = 1, IDLE (rules R20, R50, R226). -/
def failAfter (s : State) (code : Code) : State :=
  { s with res := 0#64, status := { code := code, eos := false, stickyErr := true }, fsm := .idle }

/-- The state after the downstream answered `a` to `q` and became `d` (rule R52). -/
def afterRequest (s : State) (q : Request) (a : Answer) (d : Downstream) : State :=
  { s with ds := d, dsLog := s.dsLog ++ [(q, a)] }

/-- The numbers of table 60-1 (rule R220), as the table lists them. -/
def codeNumber : Code → Nat
  | .ok => 0
  | .invalidArgument => 1
  | .notSupported => 2
  | .ioError => 3
  | .illegalCommand => 4
  | .bufferRange => 5

/-- A 0 or 1 in RES (rules R45, R151). -/
def bitResult (v : Byte) (p : Nat) : Word64 := if v.getLsbD p then 1#64 else 0#64

/-- The physical position of the next unread bit when `p` bits are pending (rule R35): bit p-1 or bit 8-p. -/
def nextUnread (dir : Direction) (p : Nat) : Nat :=
  match dir with
  | .msbFirst => p - 1
  | .lsbFirst => 8 - p

/-- The physical position the next written bit goes to when `f` bits are placed (rules R38, R170): bit 7-f or bit f. -/
def nextFree (dir : Direction) (f : Nat) : Nat :=
  match dir with
  | .msbFirst => 7 - f
  | .lsbFirst => f

/-- What no command changes, whatever its outcome: DIR, CMD, ARG0, ARG1, BUF_SIZE and the host's list (rules R32, R49). -/
abbrev sameSetting (s t : State) : Prop :=
  t.dir = s.dir ∧ t.cmd = s.cmd ∧ t.arg0 = s.arg0 ∧ t.arg1 = s.arg1 ∧ t.bufSize = s.bufSize ∧ t.script = s.script

/-- The request a command issues first, if it issues any, by its rule (rules R151 to R198). -/
def firstRequest (i : Instr) (s : State) : Option Request :=
  match i with
  | .readbit => if s.rdCnt = 0#4 then some (.read 1) else none
  | .readbyte => some (.read 1)
  | .read => if s.outOfBuf ∨ s.count = 0 then none else some (.read s.count)
  | .writebit b =>
    if s.wrCnt.toNat = 7 then (pos s.dir 7).map fun p => .write [placeBit s.wrVal p b] else none
  | .writebiti => if s.arg0 = 0#64 ∧ s.wrCnt.toNat = 7 then some (.write [s.wrVal]) else none
  | .write =>
    if s.outOfBuf then none
    else if s.wrCnt = 0#4 then some (.write (Memory.read s.buf s.base s.count))
    else some (.write (spliceOut s.dir s.wrCnt.toNat (toRaw s.dir s.wrCnt.toNat s.wrVal) (Memory.read s.buf s.base s.count)))
  | .flush => if s.wrCnt = 0#4 then some .flush else some (.write [s.wrVal &&& fill s.dir s.wrCnt.toNat])
  | .seek org =>
    match originOf org with
    | none => none
    | some o => if o = .current ∧ s.bitsPending then none else some (.seek s.signedArg o)
  | .getpos => some .getPos
  | .setpos => some (.setPos s.signedArg)
  | .getlen => some .getLen
  | .setlen => some (.setLen s.signedArg)
  | .getcaps => none

/-- The same external downstream with other capability flags; the reference memory stream's are fixed (rule R245). -/
def Downstream.withCaps (c : Caps) : Downstream → Downstream
  | .rms r => .rms r
  | .ext x => .ext { x with caps := c }

/-- The same state with other capability flags of an external downstream. -/
def State.withCaps (s : State) (c : Caps) : State := { s with ds := s.ds.withCaps c }

/-- An outcome with its next state changed. -/
def mapNext (f : State → State) : Result → Result
  | .next t => .next (f t)
  | .fault e => .fault e
  | .refused e => .refused e

/-! ### The logical bit stream (rule R76) -/

/-- The bits of a byte in logical order (rule R76). -/
def byteBits (dir : Direction) (v : Byte) : List Bool :=
  (List.range 8).map fun k =>
    match dir with
    | .msbFirst => v.getLsbD (7 - k)
    | .lsbFirst => v.getLsbD k

/-- The logical bit stream of a byte sequence (rule R76). -/
def streamBits (dir : Direction) (bytes : List Byte) : List Bool := bytes.flatMap (byteBits dir)

/-- The last `s` bits of a byte in logical order: what a raw carry byte carries (rule R138). -/
def carryBits (dir : Direction) (s : Nat) (c : Byte) : List Bool := (byteBits dir c).drop (8 - s)

/-- The unread bits of the read accumulator (rule R35). -/
def pendingRead (s : State) : List Bool := carryBits s.dir s.rdCnt.toNat s.rdVal

/-- The placed bits of the write accumulator (rule R38). -/
def pendingWrite (s : State) : List Bool := (byteBits s.dir s.wrVal).take s.wrCnt.toNat

/-- The bits a write command appends (rule R177). -/
def appendedBits (i : Instr) (s : State) : List Bool :=
  match i with
  | .writebit b => [b]
  | .writebiti => [false]
  | .write => streamBits s.dir (Memory.read s.buf s.base s.count)
  | .readbit | .readbyte | .read | .flush | .seek _ | .getpos | .setpos | .getlen | .setlen | .getcaps => []

/-- The bits a read command that completed with OK has delivered, read off its result and BUF (rules R76, R221). -/
def deliveredBits (i : Instr) (t : State) : List Bool :=
  match i with
  | .readbit => if t.status.eos then [] else [t.res.getLsbD 0]
  | .readbyte => if t.status.eos then [] else byteBits t.dir (t.res.setWidth 8)
  | .read => streamBits t.dir (Memory.read t.buf t.base t.res.toNat)
  | .writebit _ | .writebiti | .write | .flush | .seek _ | .getpos | .setpos | .getlen | .setlen | .getcaps => []

/-- The bytes the downstream accepted, in order, from a record of requests (rule R80). -/
def acceptedBytes : List (Request × Answer) → List Byte
  | [] => []
  | (.write bytes, .ok _ _) :: rest => bytes ++ acceptedBytes rest
  | (_, _) :: rest => acceptedBytes rest

/-- The bytes the downstream delivered, in order, from a record of requests (rule R79). -/
def receivedBytes : List (Request × Answer) → List Byte
  | [] => []
  | (.read _, .ok bytes _) :: rest => bytes ++ receivedBytes rest
  | (_, _) :: rest => receivedBytes rest

/-- The requests issued between two states of one run. -/
def issuedSince (s t : State) : List (Request × Answer) := t.dsLog.drop s.dsLog.length

/-! ### Runs of commands -/

/-- The read commands (rule R150). -/
def isReadCommand : Instr → Bool
  | .readbit | .readbyte | .read => true
  | .writebit _ | .writebiti | .write | .flush | .seek _ | .getpos | .setpos | .getlen | .setlen | .getcaps => false

/-- The write commands (rule R169). -/
def isWriteCommand : Instr → Bool
  | .writebit _ | .writebiti | .write => true
  | .readbit | .readbyte | .read | .flush | .seek _ | .getpos | .setpos | .getlen | .setlen | .getcaps => false

/-- From `s`, the host has appended `bits` and the core is at the last state (rule R177): every write command completed
with OK, there was no FLUSH and no reset; between commands the host may change ARG0, ARG1 and BUF, and other commands may run. -/
inductive WriteSession (s : State) : List Bool → State → Prop where
  | start : WriteSession s [] s
  | host {bits t} (a0 : Word64) (a1 : Word32) (m : List Host.Cell) :
      WriteSession s bits t → WriteSession s bits ((t.setArgs a0 a1).setBuf m)
  | other {bits t u} (i : Instr) : WriteSession s bits t → isWriteCommand i = false → i ≠ .flush → exec i t = .next u →
      WriteSession s bits u
  | append {bits t u} (i : Instr) : WriteSession s bits t → isWriteCommand i = true → exec i t = .next u →
      u.status.code = .ok → WriteSession s (bits ++ appendedBits i t) u

/-- One WRITEBIT after another, each completing; none if one stops. -/
def writeBits : List Bool → State → Option State
  | [], s => some s
  | b :: rest, s =>
    match exec (.writebit b) s with
    | .next t => writeBits rest t
    | .fault _ => none
    | .refused _ => none

/-- `n` READBITs, with their results; none if one stops. -/
def readBits : Nat → State → Option (List Word64)
  | 0, _ => some []
  | n + 1, s =>
    match exec .readbit s with
    | .next t => (readBits n t).map (t.res :: ·)
    | .fault _ => none
    | .refused _ => none

end Sys2Proof.Machine
end

