-- ==== Sys2Proof/Certificates/Slice0/Obligations.lean ====
section
/-! DEFINITION. The statements about the machine, from the numbered rules of spec/. -/

open Sys2Proof Sys2Proof.Machine

/-! ### Reset and the invariant -/

/-- R54, R262: the reset event gives every register its reset value, whatever the core was doing, and sends nothing; BUF
and the downstream's own state stay. -/
def Obligations.ResetSetsEveryRegister : Prop :=
  ∀ (s : State) (strap : Direction) (bind : Option Downstream) (rest : List Event),
    s.script = .reset strap bind :: rest →
      ∃ t, step s = .next t ∧ t.dir = strap ∧ (t.rdVal = 0x00#8 ∧ t.rdCnt = 0#4) ∧ (t.wrVal = 0x00#8 ∧ t.wrCnt = 0#4) ∧
        (t.cmd = 0#32 ∧ t.arg0 = 0#64 ∧ t.arg1 = 0#32 ∧ t.res = 0#64) ∧ t.statusWord = 0#32 ∧ t.ioerr = 0#32 ∧
        t.fsm = .idle ∧ t.bufSize = s.bufSize ∧ t.buf = s.buf ∧ t.ds = bind.getD s.ds ∧ t.dsLog = s.dsLog

/-- The model's own reset state (the values R54 gives, and the choices of log entries 1, 2, 3, 4) meets the invariant. -/
def Obligations.ResetMeetsInvariant : Prop := State.reset.Inv

/-- R34, R36, R37, R71: every step keeps the counts in 0..7, WR_VAL canonical, BUF canonical and inside BUF_SIZE, and
ends in IDLE. -/
def Obligations.StepKeepsInvariant : Prop := ∀ s t : State, s.Inv → step s = .next t → t.Inv

/-! ### Encoding -/

/-- R100, R103, R105: over all 32-bit words, the decoder yields a command exactly when the command is well-formed and the
word is its encoding. -/
def Obligations.DecodeInvertsEncode : Prop :=
  ∀ (w : Word32) (i : Instr), decode w = .ok i ↔ i.wellFormed = true ∧ encode i = w

/-- R103: a word is legal exactly when it matches a row of table 30-3, and then its command's own row. -/
def Obligations.LegalWordsMatchTable : Prop :=
  ∀ w : Word32, ((∃ i, decode w = .ok i) ↔ ∃ r ∈ tableRows, r.accepts w = true) ∧
    ∀ i, decode w = .ok i → (rowOf i).accepts w = true

/-- R104, R224: the causes that make a word illegal, and what an illegal word does when it is written to CMD. -/
def Obligations.IllegalWordsComplete : Prop :=
  ∀ w : Word32,
    ((∃ e, decode w = .error e) ↔
      w.toNat % 256 = 0 ∨ 0x0E ≤ w.toNat % 256 ∨ w.toNat / 2048 ≠ 0 ∨
        (w.toNat / 256 % 2 = 1 ∧ w.toNat % 256 ≠ 0x04) ∨ (w.toNat / 512 % 4 ≠ 0 ∧ w.toNat % 256 ≠ 0x08) ∨
        (w.toNat / 512 % 4 = 3 ∧ w.toNat % 256 = 0x08)) ∧
    ∀ (s : State) (e : Illegal), decode w = .error e →
      runCommand w s = .next (failAfter { s with cmd := w } .illegalCommand)

/-- R103: a few words of table 30-3, and three illegal ones of R104, decoded. -/
def Obligations.SampleWordsDecode : Prop :=
  decode 0x00000001#32 = .ok .readbit ∧ decode 0x00000003#32 = .ok .read ∧
    decode 0x00000004#32 = .ok (.writebit false) ∧ decode 0x00000104#32 = .ok (.writebit true) ∧
    decode 0x00000007#32 = .ok .flush ∧ decode 0x00000008#32 = .ok (.seek 0#2) ∧
    decode 0x00000208#32 = .ok (.seek 1#2) ∧ decode 0x00000408#32 = .ok (.seek 2#2) ∧
    decode 0x0000000D#32 = .ok .getcaps ∧ decode 0x00000608#32 = .error .badOrigin ∧
    decode 0x00000101#32 = .error .strayB ∧ decode 0x80000001#32 = .error .reservedBits

/-- R106, R107 (and log entry 19, DESIGN CHOICE, for the form of a line): every assembly line assembles to the legal word
of its own command, with its bit or its origin in the word; an operand that fits its register arrives unchanged, and ARG0
and ARG1 are 0 where the command has none; REWIND is SEEK 0, BEGIN. -/
def Obligations.AssembledLinesAreLegal : Prop :=
  (∀ l : AsmLine, decode (assemble l).cmd = .ok (match l with
    | .readbit => .readbit
    | .readbyte => .readbyte
    | .read _ _ => .read
    | .writebit b => .writebit b
    | .writebiti _ => .writebiti
    | .write _ _ => .write
    | .flush => .flush
    | .seek _ .begin => .seek 0#2
    | .seek _ .current => .seek 1#2
    | .seek _ .fromEnd => .seek 2#2
    | .getpos => .getpos
    | .setpos _ => .setpos
    | .getlen => .getlen
    | .setlen _ => .setlen
    | .getcaps => .getcaps
    | .rewind => .seek 0#2)) ∧
  assemble .rewind = assemble (.seek 0 .begin) ∧
  (∀ l : AsmLine, (∀ base n, l ≠ .read base n ∧ l ≠ .write base n) → (assemble l).arg1 = 0#32) ∧
  (∀ l ∈ [AsmLine.readbit, .readbyte, .writebit false, .writebit true, .flush, .getpos, .getlen, .getcaps, .rewind],
    (assemble l).arg0 = 0#64) ∧
  (∀ base n, base < 2 ^ 32 → n < 2 ^ 64 →
    (assemble (.read base n)).arg0.toNat = n ∧ (assemble (.read base n)).arg1.toNat = base ∧
      (assemble (.write base n)).arg0.toNat = n ∧ (assemble (.write base n)).arg1.toNat = base) ∧
  ∀ v : Int, -2 ^ 63 ≤ v → v < 2 ^ 63 →
    (assemble (.setpos v)).arg0.toInt = v ∧ (assemble (.setlen v)).arg0.toInt = v ∧
      (assemble (.writebiti v)).arg0.toInt = v ∧ ∀ o, (assemble (.seek v o)).arg0.toInt = v

/-! ### Steps and the host port -/

/-- R42, R49, R50, R104 (and log entry 9 for the list of events): a legal word the host writes to CMD of an IDLE core runs
as its command, with ARG0 and ARG1 as given or as they stand, and an illegal one ends at once; `withFetchWord` places such
a write as the very next event. -/
def Obligations.StepRunsDecodedCommand : Prop :=
  (∀ (s : State) (w : Word32) (a0 : Word64) (a1 : Word32) (rest : List Event) (i : Instr), s.fsm = .idle →
    s.script = .command w a0 a1 [] :: rest → decode w = .ok i →
      step s = exec i { s with script := rest, arg0 := a0, arg1 := a1, cmd := w, fsm := .busy }) ∧
  (∀ (s : State) (v : Word64) (rest : List Event) (i : Instr), s.fsm = .idle → s.script = .writeReg .cmd v :: rest →
    decode (v.setWidth 32) = .ok i →
      step s = exec i { s with script := rest, cmd := v.setWidth 32, fsm := .busy }) ∧
  (∀ (s : State) (w : Word32) (i : Instr), decode w = .ok i →
    step (s.withFetchWord 32 w.toNat) = exec i { s with cmd := w, fsm := .busy }) ∧
  ∀ (s : State) (w : Word32) (e : Illegal), decode w = .error e →
    step (s.withFetchWord 32 w.toNat) = .next (failAfter { s with cmd := w } .illegalCommand)

/-- R31, R32, R43, R44, R46, R71: a host write to ARG0 or ARG1 sets it, a host write to a read-only register changes
nothing, and a host store to BUF sets that byte and no other. The model's own choices: ARG1 takes the low 32 bits of what
is written (log entry 9, DESIGN CHOICE), and a store to an address that does not exist is the fault `noSuchBufAddress`
(log entry 16, DESIGN CHOICE). -/
def Obligations.HostWritesBetweenCommands : Prop :=
  ∀ (s : State) (rest : List Event), s.fsm = .idle →
    (∀ v, s.script = .writeReg .arg0 v :: rest → step s = .next { s with script := rest, arg0 := v }) ∧
    (∀ v, s.script = .writeReg .arg1 v :: rest → step s = .next { s with script := rest, arg1 := v.setWidth 32 }) ∧
    (∀ r v, s.script = .writeReg r v :: rest → r ∈ [HostReg.res, .status, .ioerr, .cfg, .caps] →
      step s = .next { s with script := rest }) ∧
    ∀ a v, s.script = .storeBuf a v :: rest → Memory.wf s.buf = true →
      (a < s.bufSize → ∃ t, step s = .next t ∧ t = { s with script := rest, buf := t.buf } ∧ Memory.get t.buf a = v ∧
        ∀ x, x ≠ a → Memory.get t.buf x = Memory.get s.buf x) ∧
      (s.bufSize ≤ a → step s = .fault .noSuchBufAddress)

/-- R42, R50, R55: a command's outcome does not depend on what CMD held or on the core being BUSY already; so what is said
of `exec` at a state holds of the command a step performs there. CMD itself stays as the host wrote it. -/
def Obligations.CommandsIgnoreCmdAndBusy : Prop :=
  ∀ (i : Instr) (s : State) (w : Word32) (f : Fsm),
    exec i { s with cmd := w, fsm := f } = mapNext (fun t => { t with cmd := w }) (exec i s)

/-- R48, R78, R238, R261 (the event is the model's, log entry 17, DESIGN CHOICE): the world replaces the bound
downstream's own state, its flags and answers to come among it, and nothing else of the machine; a state of the other kind
of stream is none of this one's and changes nothing. -/
def Obligations.WorldChangesDownstreamOnly : Prop :=
  ∀ (s : State) (d : Downstream) (rest : List Event), s.fsm = .idle → s.script = .dsChange d :: rest →
    (∀ r r', s.ds = .rms r → d = .rms r' → step s = .next { s with script := rest, ds := .rms r' }) ∧
    (∀ x x', s.ds = .ext x → d = .ext x' → step s = .next { s with script := rest, ds := .ext x' }) ∧
    (∀ r x, (s.ds = .rms r ∧ d = .ext x) ∨ (s.ds = .ext x ∧ d = .rms r) → step s = .next { s with script := rest })

/-- R42, R86, R260 (and log entries 6, 9, 14 for the form of it): an IDLE core with nothing to do stays as it is; a BUSY
core takes no step for any event but reset. -/
def Obligations.WaitingCore : Prop :=
  (∀ s : State, s.fsm = .idle → s.script = [] → step s = .next s) ∧
    ∀ s : State, s.fsm = .busy → (∀ strap bind rest, s.script ≠ .reset strap bind :: rest) → step s = .fault .unanswered

/-- R49: no command and no event changes which event comes next. -/
def Obligations.NothingChangesTheHostsList : Prop :=
  (∀ (i : Instr) (s t : State), exec i s = .next t → t.script = s.script) ∧
    ∀ s t : State, step s = .next t → t.script = s.script.tail

/-- R32, R74, R225, R261: until a reset, every step keeps DIR, BUF_SIZE and the kind of stream bound, never clears
STICKY_ERR, and only adds to the record of requests. -/
def Obligations.FixedUntilReset : Prop :=
  ∀ s t : State, step s = .next t → (∀ strap bind rest, s.script ≠ .reset strap bind :: rest) →
    t.dir = s.dir ∧ t.bufSize = s.bufSize ∧ (s.status.stickyErr = true → t.status.stickyErr = true) ∧
      s.dsLog <+: t.dsLog ∧ ((∃ r, s.ds = .rms r) ↔ ∃ r, t.ds = .rms r)

/-- R31, R32, R40, R45, R46, R47, R48, R220: what the host reads at its port. RES, IOERR and STATUS, CFG and CAPS as words
(CODE, EOS, STICKY_ERR and BUSY in STATUS, DIR in CFG, the three live flags in CAPS, every other bit 0), a 32-bit one
zero-extended; CMD, ARG0 and ARG1 are not readable, and no register shows the accumulators. -/
def Obligations.PortWordLayout : Prop :=
  ∀ s : State,
    (s.statusWord.toNat % 8 = codeNumber s.status.code ∧ s.statusWord.getLsbD 3 = s.status.eos ∧
      s.statusWord.getLsbD 4 = s.status.stickyErr ∧ s.statusWord.getLsbD 5 = decide (s.fsm = .busy) ∧
      s.statusWord.toNat / 64 = 0 ∧
      s.cfgWord.toNat = (if s.dir = .lsbFirst then 1 else 0) ∧
      s.capsWord.getLsbD 0 = s.ds.caps.canRead ∧ s.capsWord.getLsbD 1 = s.ds.caps.canWrite ∧
      s.capsWord.getLsbD 2 = s.ds.caps.canSeek ∧ s.capsWord.toNat / 8 = 0) ∧
    (s.readReg .res = some s.res ∧
      (∀ r w, (r, w) ∈ [(HostReg.status, s.statusWord), (.ioerr, s.ioerr), (.cfg, s.cfgWord), (.caps, s.capsWord)] →
        ∃ v, s.readReg r = some v ∧ v.toNat = w.toNat) ∧
      ∀ r ∈ [HostReg.cmd, .arg0, .arg1], s.readReg r = none) ∧
    ∀ (t : State) (r : HostReg),
      t = { s with rdVal := t.rdVal, rdCnt := t.rdCnt, wrVal := t.wrVal, wrCnt := t.wrCnt } → t.readReg r = s.readReg r

/-- R53, R97, R265 (and log entry 10, DEDUCED, for the form of it): what host stores to BUF do while a command is BUSY.
Outside the range of a READ, a byte holds after the command the last value stored to it, or what it held. Unless a store
meets a WRITE in its range, the command has otherwise the outcome it has without the stores: every field but BUF and the
counter of free bytes, every BUF byte no store goes to, and a stop. The model's own choice: a store to an address that does
not exist (R71) is the fault `noSuchBufAddress` (log entry 16, DESIGN CHOICE). -/
def Obligations.RacingStoresLand : Prop :=
  ∀ (s : State) (w : Word32) (a0 : Word64) (a1 : Word32) (stores : List Host.Cell) (rest : List Event), s.fsm = .idle →
    s.script = .command w a0 a1 stores :: rest → Memory.wf s.buf = true →
      ((∃ c ∈ stores, s.bufSize ≤ c.1) → step s = .fault .noSuchBufAddress) ∧
      ((∀ c ∈ stores, c.1 < s.bufSize) →
        (∀ t, step s = .next t →
          ∀ y, (decode w ≠ .ok .read ∨ y < a1.toNat ∨ a1.toNat + a0.toNat ≤ y) →
            ((∀ c ∈ stores, c.1 ≠ y) → Memory.get t.buf y = Memory.get s.buf y) ∧
            ∀ earlier v later, stores = earlier ++ (y, v) :: later → (∀ c ∈ later, c.1 ≠ y) → Memory.get t.buf y = v) ∧
        ((decode w = .ok .write → a1.toNat + a0.toNat ≤ s.bufSize →
            ∀ c ∈ stores, c.1 < a1.toNat ∨ a1.toNat + a0.toNat ≤ c.1) →
          (∀ i, decode w = .ok i →
            (∀ u, exec i { s with script := rest, arg0 := a0, arg1 := a1, cmd := w, fsm := .busy } = .next u →
              ∃ t, step s = .next t ∧ t = { u with buf := t.buf, draws := t.draws } ∧
                ∀ y, (∀ c ∈ stores, c.1 ≠ y) → Memory.get t.buf y = Memory.get u.buf y) ∧
            ∀ f, exec i { s with script := rest, arg0 := a0, arg1 := a1, cmd := w, fsm := .busy } = .fault f →
              step s = .fault f) ∧
          ∀ e, decode w = .error e →
            ∃ t, step s = .next t ∧
              t = failAfter { s with script := rest, arg0 := a0, arg1 := a1, cmd := w, buf := t.buf } .illegalCommand))

/-- R97, R265 (and log entries 7, 10 for the form of it): a WRITE that meets a host store in its range. It is one write of
`n` bytes, with no claim on any of them or on the tail kept pending; all else is as in a WRITE that meets none. It
completes whatever bytes it sends, if the downstream answers every write; so over the reference memory stream. -/
def Obligations.RacedWriteSendsAnyBytes : Prop :=
  ∀ (s : State) (a0 : Word64) (a1 : Word32) (x : Nat) (v : Byte) (rest : List Event), s.Inv →
    s.script = .command 0x00000006#32 a0 a1 [(x, v)] :: rest → a1.toNat ≤ x → x < a1.toNat + a0.toNat →
      a1.toNat + a0.toNat ≤ s.bufSize →
      ((∀ q : Request, ∃ a d, s.ds.respond q = some (a, d)) → ∃ t, step s = .next t) ∧
      ∀ t, step s = .next t →
        ∃ out a, out.length = a0.toNat ∧ t.dsLog = s.dsLog ++ [(.write out, a)] ∧
          (∃ d, s.ds.respond (.write out) = some (a, d) ∧ t.ds = d) ∧
          t.script = rest ∧ t.dir = s.dir ∧ t.cmd = 0x00000006#32 ∧ t.arg0 = a0 ∧ t.arg1 = a1 ∧ t.bufSize = s.bufSize ∧
          t.rdVal = s.rdVal ∧ t.rdCnt = s.rdCnt ∧ t.wrCnt = s.wrCnt ∧ t.res = 0#64 ∧ t.status.eos = false ∧
          t.wrVal &&& ~~~(fill t.dir t.wrCnt.toNat) = 0x00#8 ∧ (s.wrCnt = 0#4 → t.wrVal = s.wrVal) ∧
          (∀ bytes p, a = .ok bytes p →
            t.status.code = .ok ∧ t.status.stickyErr = s.status.stickyErr ∧ t.ioerr = s.ioerr) ∧
          (∀ e, a = .err e →
            t.status.code = .ioError ∧ t.status.stickyErr = true ∧ t.ioerr = e ∧ t.wrVal = s.wrVal) ∧
          ∀ y, Memory.get t.buf y = if y = x then v else Memory.get s.buf y

/-! ### The Bit Order Policy and the engine -/

/-- R130, R131, R134: the policy's positions, no position outside 0..7, and the masks bit by bit. -/
def Obligations.PolicyAndMasks : Prop :=
  ∀ (dir : Direction) (k : Nat),
    (k < 8 → pos dir k = some (if dir = .msbFirst then 7 - k else k)) ∧ (8 ≤ k → pos dir k = none) ∧
      ∀ p f, pos dir k = some p → f ≤ 8 →
        (fill dir f).getLsbD p = decide (k < f) ∧ (unread dir f).getLsbD p = decide (8 - f ≤ k)

/-- R139: both forms of the funnel shift, and which bits of the two bytes each result bit is. -/
def Obligations.FunnelJoinsTwoBytes : Prop :=
  ∀ (s : Nat) (prev cur : Byte), 1 ≤ s → s ≤ 7 →
    funnel .msbFirst s prev cur = (prev <<< (8 - s)) ||| (cur >>> s) ∧
    funnel .lsbFirst s prev cur = (prev >>> (8 - s)) ||| (cur <<< s) ∧
    ∀ j, j < 8 →
      (funnel .msbFirst s prev cur).getLsbD j = (if 8 - s ≤ j then prev.getLsbD (j - (8 - s)) else cur.getLsbD (j + s)) ∧
      (funnel .lsbFirst s prev cur).getLsbD j = if j < s then prev.getLsbD (j + (8 - s)) else cur.getLsbD (j - s)

/-- R143: the engine keeps the logical bit stream: carry bits then input bits are output bits then new carry bits; the
same for the write side through the conversions of R140. -/
def Obligations.EngineKeepsBitStream : Prop :=
  (∀ (dir : Direction) (s : Nat) (c c' : Byte) (src out : List Byte), splice dir s c src = some (out, c') →
    carryBits dir s c ++ streamBits dir src = streamBits dir out ++ carryBits dir s c') ∧
  ∀ (dir : Direction) (f : Nat) (w c : Byte), 1 ≤ f → f ≤ 7 →
    carryBits dir f (toRaw dir f w) = (byteBits dir w).take f ∧
      (byteBits dir (fromRaw dir f c)).take f = carryBits dir f c

/-- R36, R140: `FromRaw` always gives a canonical value, and undoes `ToRaw` on one. -/
def Obligations.CarryFormsAgree : Prop :=
  ∀ (dir : Direction) (f : Nat) (w c : Byte), 1 ≤ f → f ≤ 7 →
    fromRaw dir f c &&& ~~~(fill dir f) = 0x00#8 ∧
      (w &&& ~~~(fill dir f) = 0x00#8 → fromRaw dir f (toRaw dir f w) = w)

/-- R138, R142: the engine has a result for carry widths 1..7 and no others; its output and carry byte by byte. R141: an
in-place engine that walks downward gives that output, and one that walks upward does not. -/
def Obligations.InPlaceEngineWalksDown : Prop :=
  (∀ (dir : Direction) (s : Nat) (c : Byte) (src : List Byte), (∃ r, splice dir s c src = some r) ↔ 1 ≤ s ∧ s ≤ 7) ∧
  (∀ (dir : Direction) (s : Nat) (c c' : Byte) (src out : List Byte), splice dir s c src = some (out, c') →
    inPlaceDescending dir s c src = out ∧ out.length = src.length ∧
      (∀ i, i < src.length →
        out.getD i 0x00#8 =
          funnel dir s (if i = 0 then c else src.getD (i - 1) 0x00#8) (src.getD i 0x00#8)) ∧
      c' = if src = [] then c else src.getD (src.length - 1) 0x00#8) ∧
  ∀ dir : Direction, ∃ s c c' src out, splice dir s c src = some (out, c') ∧ inPlaceAscending dir s c src ≠ out

/-! ### The read path -/

/-- R151: READBIT, its encoding and every case of its rule. -/
def Obligations.ReadbitRule : Prop :=
  decode 0x00000001#32 = .ok .readbit ∧ ∀ s : State,
    (s.rdCnt ≠ 0#4 → s.rdCnt.toNat ≤ 7 →
      exec .readbit s = .next (okAfter { s with rdCnt := s.rdCnt - 1#4 }
        (bitResult s.rdVal (nextUnread s.dir s.rdCnt.toNat)) false)) ∧
    (s.rdCnt = 0#4 → ∀ a d, s.ds.respond (.read 1) = some (a, d) →
      (∀ v x, a = .ok [v] x →
        exec .readbit s = .next (okAfter { afterRequest s (.read 1) a d with rdVal := v, rdCnt := 7#4 }
          (bitResult v (nextUnread s.dir 8)) false)) ∧
      (∀ x, a = .ok [] x →
        exec .readbit s = .next (okAfter (afterRequest s (.read 1) a d) 0xFFFFFFFFFFFFFFFF#64 true)) ∧
      ∀ e, a = .err e →
        exec .readbit s = .next (failAfter { afterRequest s (.read 1) a d with ioerr := e } .ioError))

/-- R152: READBYTE, its encoding and every case of its rule. -/
def Obligations.ReadbyteRule : Prop :=
  decode 0x00000002#32 = .ok .readbyte ∧ ∀ (s : State) (a : Answer) (d : Downstream), s.rdCnt.toNat ≤ 7 → s.ds.respond (.read 1) = some (a, d) →
    (∀ v x, a = .ok [v] x → s.rdCnt = 0#4 →
      exec .readbyte s = .next (okAfter (afterRequest s (.read 1) a d) (v.setWidth 64) false)) ∧
    (∀ v x, a = .ok [v] x → s.rdCnt ≠ 0#4 →
      exec .readbyte s = .next (okAfter { afterRequest s (.read 1) a d with rdVal := v }
        ((funnel s.dir s.rdCnt.toNat s.rdVal v).setWidth 64) false)) ∧
    (∀ x, a = .ok [] x →
      exec .readbyte s = .next (okAfter (afterRequest s (.read 1) a d) 0xFFFFFFFFFFFFFFFF#64 true)) ∧
    ∀ e, a = .err e →
      exec .readbyte s = .next (failAfter { afterRequest s (.read 1) a d with ioerr := e } .ioError)

/-- R154, R155, R156: READ, its encoding and every case of its rules, BUF byte by byte. -/
def Obligations.ReadRule : Prop :=
  decode 0x00000003#32 = .ok .read ∧ ∀ s : State, Memory.wf s.buf = true → s.rdCnt.toNat ≤ 7 →
    (s.bufSize < s.arg1.toNat + s.arg0.toNat → exec .read s = .next (failAfter s .bufferRange)) ∧
    (s.arg1.toNat + s.arg0.toNat ≤ s.bufSize →
      (s.arg0 = 0#64 → exec .read s = .next (okAfter s 0#64 false)) ∧
      (s.arg0 ≠ 0#64 → ∀ a d, s.ds.respond (.read s.arg0.toNat) = some (a, d) →
        (∀ bytes x, a = .ok bytes x →
          ∃ t, exec .read s = .next t ∧
            t = okAfter { afterRequest s (.read s.arg0.toNat) a d with
              buf := t.buf, rdVal := if s.rdCnt = 0#4 then s.rdVal else bytes.getLastD s.rdVal }
              (BitVec.ofNat 64 bytes.length) false ∧
            (∀ i, i < bytes.length →
              Memory.get t.buf (s.arg1.toNat + i) =
                if s.rdCnt = 0#4 then bytes.getD i 0x00#8
                else funnel s.dir s.rdCnt.toNat (if i = 0 then s.rdVal else bytes.getD (i - 1) 0x00#8)
                  (bytes.getD i 0x00#8)) ∧
            ∀ y, (y < s.arg1.toNat ∨ s.arg1.toNat + bytes.length ≤ y) → Memory.get t.buf y = Memory.get s.buf y) ∧
        ∀ e, a = .err e →
          ∃ t, exec .read s = .next t ∧
            t = failAfter { afterRequest s (.read s.arg0.toNat) a d with
              ioerr := e, buf := t.buf, draws := t.draws } .ioError ∧
            ∀ y, (y < s.arg1.toNat ∨ s.arg1.toNat + s.arg0.toNat ≤ y) → Memory.get t.buf y = Memory.get s.buf y))

/-- R153: READBYTE and READ of one byte agree in every state and on every answer: the two next states are equal but for
where the byte goes (RES or BUF at base) and STATUS.EOS. After a failure RES is the same, and READ's one byte of BUF holds
any value (R158); the model's counter of free bytes (log entry 7) is left out of the comparison. -/
def Obligations.ReadbyteIsReadOfOne : Prop :=
  ∀ (s : State) (a : Answer) (d : Downstream), Memory.wf s.buf = true → s.rdCnt.toNat ≤ 7 → s.arg0 = 1#64 →
    s.arg1.toNat + 1 ≤ s.bufSize → s.ds.respond (.read 1) = some (a, d) →
      ∃ t u, exec .readbyte s = .next t ∧ exec .read s = .next u ∧
        t.rdVal = u.rdVal ∧ t.rdCnt = u.rdCnt ∧ t.ds = u.ds ∧ t.status.code = u.status.code ∧
        u = { t with
          res := u.res, buf := u.buf, draws := u.draws, status := { t.status with eos := u.status.eos } } ∧
        t.buf = s.buf ∧ (∀ y, y ≠ s.arg1.toNat → Memory.get u.buf y = Memory.get s.buf y) ∧
        (u.status.code ≠ .ok → u.res = t.res ∧ t.status.eos = false) ∧
        (u.status.code = .ok → u.res = 1#64 →
          t.res = (Memory.get u.buf s.arg1.toNat).setWidth 64 ∧ t.status.eos = false) ∧
        (u.status.code = .ok → u.res = 0#64 → u.buf = s.buf ∧ t.res = 0xFFFFFFFFFFFFFFFF#64 ∧ t.status.eos = true) ∧
        (u.status.code = .ok → u.res = 0#64 ∨ u.res = 1#64) ∧ u.status.eos = false

/-- R76, R150: the bits a read command delivers are the next ones of the logical bit stream: delivered bits then the bits
still pending are the bits that were pending then the bits the downstream delivered. -/
def Obligations.ReadsDeliverTheStream : Prop :=
  ∀ (i : Instr) (s t : State), isReadCommand i = true → s.good → exec i s = .next t → t.status.code = .ok →
    deliveredBits i t ++ pendingRead t = pendingRead s ++ streamBits s.dir (receivedBytes (issuedSince s t))

/-! ### The write path -/

/-- R170: WRITEBIT, its two encodings and every case of its rule. -/
def Obligations.WritebitRule : Prop :=
  decode 0x00000004#32 = .ok (.writebit false) ∧ decode 0x00000104#32 = .ok (.writebit true) ∧ ∀ (s : State) (b : Bool) (w : Byte), s.wrCnt.toNat ≤ 7 →
    w = (if s.wrCnt = 0#4 then 0x00#8 else s.wrVal) ||| (if b then 0x01#8 <<< nextFree s.dir s.wrCnt.toNat else 0x00#8) →
      (s.wrCnt.toNat < 7 →
        exec (.writebit b) s = .next (okAfter { s with wrVal := w, wrCnt := s.wrCnt + 1#4 } 0#64 false)) ∧
      (s.wrCnt.toNat = 7 → ∀ a d, s.ds.respond (.write [w]) = some (a, d) →
        (∀ bytes x, a = .ok bytes x →
          exec (.writebit b) s = .next (okAfter { afterRequest s (.write [w]) a d with
            wrVal := 0x00#8, wrCnt := 0#4 } 0#64 false)) ∧
        ∀ e, a = .err e →
          exec (.writebit b) s = .next (failAfter { afterRequest s (.write [w]) a d with ioerr := e } .ioError))

/-- R171, R222: WRITEBITI, its encoding; it rejects every value but 0, and with 0 is WRITEBIT 0. -/
def Obligations.WritebitiRule : Prop :=
  decode 0x00000005#32 = .ok .writebiti ∧ ∀ s : State,
    (s.arg0 ≠ 0#64 → exec .writebiti s = .next (failAfter s .invalidArgument)) ∧
    (s.arg0 = 0#64 → exec .writebiti s = exec (.writebit false) s) ∧
    (s.arg0 = 0#64 → s.wrCnt.toNat < 7 →
      exec .writebiti s = .next (okAfter { s with
        wrVal := if s.wrCnt = 0#4 then 0x00#8 else s.wrVal, wrCnt := s.wrCnt + 1#4 } 0#64 false)) ∧
    (s.arg0 = 0#64 → s.wrCnt.toNat = 7 → ∀ bytes x d, s.ds.respond (.write [s.wrVal]) = some (.ok bytes x, d) →
      exec .writebiti s = .next (okAfter { afterRequest s (.write [s.wrVal]) (.ok bytes x) d with
        wrVal := 0x00#8, wrCnt := 0#4 } 0#64 false))

/-- R172, R173: WRITE, its encoding and every case of its rules, the bytes sent one by one. -/
def Obligations.WriteRule : Prop :=
  decode 0x00000006#32 = .ok .write ∧ ∀ s : State, s.wrCnt.toNat ≤ 7 →
    (s.bufSize < s.arg1.toNat + s.arg0.toNat → exec .write s = .next (failAfter s .bufferRange)) ∧
    (s.arg1.toNat + s.arg0.toNat ≤ s.bufSize → ∀ (out : List Byte) (a : Answer) (d : Downstream),
      out.length = s.arg0.toNat → s.ds.respond (.write out) = some (a, d) →
      (∀ i, i < s.arg0.toNat →
        out.getD i 0x00#8 =
          if s.wrCnt = 0#4 then Memory.get s.buf (s.arg1.toNat + i)
          else funnel s.dir s.wrCnt.toNat
            (if i = 0 then toRaw s.dir s.wrCnt.toNat s.wrVal else Memory.get s.buf (s.arg1.toNat + i - 1))
            (Memory.get s.buf (s.arg1.toNat + i))) →
        (∀ bytes x, a = .ok bytes x →
          exec .write s = .next (okAfter { afterRequest s (.write out) a d with
            wrVal := if s.wrCnt = 0#4 then s.wrVal
              else fromRaw s.dir s.wrCnt.toNat
                (if s.arg0 = 0#64 then toRaw s.dir s.wrCnt.toNat s.wrVal
                 else Memory.get s.buf (s.arg1.toNat + s.arg0.toNat - 1)) } 0#64 false)) ∧
        ∀ e, a = .err e →
          exec .write s = .next (failAfter { afterRequest s (.write out) a d with ioerr := e } .ioError))

/-- R38, R76, R177: one write command that completes with OK keeps the account: the bits the downstream accepted then the
bits now pending are the bits that were pending then the bits appended. -/
def Obligations.WriteCommandKeepsAccount : Prop :=
  ∀ (i : Instr) (s t : State), isWriteCommand i = true → s.good → exec i s = .next t → t.status.code = .ok →
    streamBits s.dir (acceptedBytes (issuedSince s t)) ++ pendingWrite t = pendingWrite s ++ appendedBits i s

/-- R177: bit accounting over every session of write commands since a reset. -/
def Obligations.WriteSessionAccount : Prop :=
  ∀ (s u : State) (strap : Direction) (bind : Option Downstream) (bits : List Bool),
    WriteSession (s.hardReset strap bind) bits u →
      (acceptedBytes (issuedSince s u)).length = bits.length / 8 ∧
      streamBits u.dir (acceptedBytes (issuedSince s u)) = bits.take (8 * (bits.length / 8)) ∧
      u.wrCnt.toNat = bits.length % 8 ∧ pendingWrite u = bits.drop (8 * (bits.length / 8))

/-- R76 and the round trip of 95_test_vectors.md L1-1: bits written to a fresh memory stream, flushed and read back from
the start are the same bits, in either direction. -/
def Obligations.WrittenBitsReadBack : Prop :=
  ∀ (s : State) (bits : List Bool), s.rdCnt = 0#4 → s.wrCnt = 0#4 → s.arg0 = 0#64 →
    s.ds = .rms { content := [], pos := 0 } →
      ∃ t u v, writeBits bits s = some t ∧ exec .flush t = .next u ∧ exec (.seek 0#2) u = .next v ∧
        readBits bits.length v = some (bits.map fun b => if b then 1#64 else 0#64)

/-! ### Stream control -/

/-- R190, R191: FLUSH, its encoding and every case of its rule, the commit of the emptied accumulator among them. -/
def Obligations.FlushRule : Prop :=
  decode 0x00000007#32 = .ok .flush ∧ ∀ s : State,
    (s.wrCnt = 0#4 → ∀ a d, s.ds.respond .flush = some (a, d) →
      (∀ bytes x, a = .ok bytes x → exec .flush s = .next (okAfter (afterRequest s .flush a d) 0#64 false)) ∧
      ∀ e, a = .err e → exec .flush s = .next (failAfter { afterRequest s .flush a d with ioerr := e } .ioError)) ∧
    (s.wrCnt ≠ 0#4 → s.wrCnt.toNat ≤ 7 → ∀ v a d, v = s.wrVal &&& fill s.dir s.wrCnt.toNat →
      s.ds.respond (.write [v]) = some (a, d) →
      (∀ e, a = .err e → exec .flush s = .next (failAfter { afterRequest s (.write [v]) a d with ioerr := e } .ioError)) ∧
      ∀ bytes x a2 d2, a = .ok bytes x → d.respond .flush = some (a2, d2) →
        (∀ bytes2 x2, a2 = .ok bytes2 x2 →
          exec .flush s = .next (okAfter { afterRequest (afterRequest s (.write [v]) a d) .flush a2 d2 with
            wrVal := 0x00#8, wrCnt := 0#4 } 0#64 false)) ∧
        ∀ e, a2 = .err e →
          exec .flush s = .next (failAfter { afterRequest (afterRequest s (.write [v]) a d) .flush a2 d2 with
            wrVal := 0x00#8, wrCnt := 0#4, ioerr := e } .ioError))

/-- R192, R193: SEEK, its encodings and every case of its rule for the three origins. -/
def Obligations.SeekRule : Prop :=
  ∀ (s : State) (org : BitVec 2) (o : Origin), (org, o) ∈ [(0#2, Origin.begin), (1#2, .current), (2#2, .fromEnd)] →
    decode (0x00000008#32 ||| org.setWidth 32 <<< 9) = .ok (.seek org) ∧
    (o = .current → (s.rdCnt ≠ 0#4 ∨ s.wrCnt ≠ 0#4) → exec (.seek org) s = .next (failAfter s .notSupported)) ∧
    ((o ≠ .current ∨ (s.rdCnt = 0#4 ∧ s.wrCnt = 0#4)) → ∀ a d, s.ds.respond (.seek s.arg0.toInt o) = some (a, d) →
      (∀ bytes p, a = .ok bytes p →
        exec (.seek org) s = .next (okAfter (afterRequest s (.seek s.arg0.toInt o) a d) p false)) ∧
      ∀ e, a = .err e →
        exec (.seek org) s = .next (failAfter { afterRequest s (.seek s.arg0.toInt o) a d with ioerr := e } .ioError))

/-- R104 (and log entry 15 for the form of it): a SEEK term with ORG = 3 completes as an illegal command. -/
def Obligations.SeekOfNoOriginIsIllegal : Prop :=
  ∀ s : State, exec (.seek 3#2) s = .next (failAfter s .illegalCommand)

/-- R194, R195, R196, R197: GETPOS, SETPOS, GETLEN and SETLEN, their encodings and every case of their rules. -/
def Obligations.PassThroughRules : Prop :=
  decode 0x00000009#32 = .ok .getpos ∧ decode 0x0000000A#32 = .ok .setpos ∧ decode 0x0000000B#32 = .ok .getlen ∧
    decode 0x0000000C#32 = .ok .setlen ∧ ∀ (s : State) (a : Answer) (d : Downstream),
    (s.ds.respond .getPos = some (a, d) →
      (∀ bytes v, a = .ok bytes v → exec .getpos s = .next (okAfter (afterRequest s .getPos a d) v false)) ∧
      ∀ e, a = .err e → exec .getpos s = .next (failAfter { afterRequest s .getPos a d with ioerr := e } .ioError)) ∧
    (s.ds.respond (.setPos s.arg0.toInt) = some (a, d) →
      (∀ bytes v, a = .ok bytes v →
        exec .setpos s = .next (okAfter (afterRequest s (.setPos s.arg0.toInt) a d) 0#64 false)) ∧
      ∀ e, a = .err e →
        exec .setpos s = .next (failAfter { afterRequest s (.setPos s.arg0.toInt) a d with ioerr := e } .ioError)) ∧
    (s.ds.respond .getLen = some (a, d) →
      (∀ bytes v, a = .ok bytes v → exec .getlen s = .next (okAfter (afterRequest s .getLen a d) v false)) ∧
      ∀ e, a = .err e → exec .getlen s = .next (failAfter { afterRequest s .getLen a d with ioerr := e } .ioError)) ∧
    (s.ds.respond (.setLen s.arg0.toInt) = some (a, d) →
      (∀ bytes v, a = .ok bytes v →
        exec .setlen s = .next (okAfter (afterRequest s (.setLen s.arg0.toInt) a d) 0#64 false)) ∧
      ∀ e, a = .err e →
        exec .setlen s = .next (failAfter { afterRequest s (.setLen s.arg0.toInt) a d with ioerr := e } .ioError))

/-- R198: GETCAPS, its encoding; it returns the bound downstream's three flags and asks it nothing. -/
def Obligations.GetcapsRule : Prop :=
  decode 0x0000000D#32 = .ok .getcaps ∧ ∀ s : State,
    exec .getcaps s = .next (okAfter s
      (BitVec.ofNat 64 ((if s.ds.caps.canRead then 1 else 0) + (if s.ds.caps.canWrite then 2 else 0) +
        if s.ds.caps.canSeek then 4 else 0)) false)

/-! ### Failures and the downstream port -/

/-- R85, R223: whatever the command, a first request that fails ends it with IO_ERROR and the downstream's information;
no further request is issued, and nothing else changes but BUF by READ. -/
def Obligations.FailedRequestEndsCommand : Prop :=
  ∀ (i : Instr) (s : State) (q : Request) (e : Word32) (d : Downstream), s.good → firstRequest i s = some q →
    s.ds.respond q = some (.err e, d) →
      ∃ t, exec i s = .next t ∧
        t = failAfter { afterRequest s q (.err e) d with ioerr := e, buf := t.buf, draws := t.draws } .ioError ∧
        (i ≠ .read → t.buf = s.buf ∧ t.draws = s.draws)

/-- R86: a command whose request is never answered has no next state, FLUSH's second request included. -/
def Obligations.UnansweredRequestIsStuck : Prop :=
  (∀ (i : Instr) (s : State) (q : Request), s.good → firstRequest i s = some q → s.ds.respond q = none →
    exec i s = .fault .unanswered) ∧
  ∀ (s : State) (v : Byte) (bytes : List Byte) (x : Word64) (d : Downstream), s.good → s.wrCnt ≠ 0#4 →
    v = s.wrVal &&& fill s.dir s.wrCnt.toNat → s.ds.respond (.write [v]) = some (.ok bytes x, d) →
      d.respond .flush = none → exec .flush s = .fault .unanswered

/-- R86, R231, R271: from good registers, an unanswered request is the only way a command has no next state, and over the
reference memory stream every command completes. -/
def Obligations.CommandsCompleteWhenAnswered : Prop :=
  ∀ (i : Instr) (s : State), s.good →
    ((∃ t, exec i s = .next t) ∨ exec i s = .fault .unanswered) ∧
      ∀ r, s.ds = .rms r → ∃ t, exec i s = .next t

/-- R226: what a command that failed has changed, and nothing else; an illegal word among them. -/
def Obligations.FailureChangesOnly : Prop :=
  (∀ (w : Word32) (e : Illegal) (s t : State), decode w = .error e → runCommand w s = .next t →
    t = failAfter (s.accept w) .illegalCommand) ∧
  ∀ (i : Instr) (s t : State), Memory.wf s.buf = true → exec i s = .next t → t.status.code ≠ .ok →
    t.status.eos = false ∧ t.status.stickyErr = true ∧ t.res = 0#64 ∧
    (t.status.code ≠ .ioError → t.ioerr = s.ioerr ∧ t.ds = s.ds ∧ t.dsLog = s.dsLog) ∧
    t.rdVal = s.rdVal ∧ t.rdCnt = s.rdCnt ∧ sameSetting s t ∧
    ((t.wrVal = s.wrVal ∧ t.wrCnt = s.wrCnt) ∨
      (i = .flush ∧ s.wrCnt ≠ 0#4 ∧ t.status.code = .ioError ∧ t.wrVal = 0x00#8 ∧ t.wrCnt = 0#4 ∧
        ∃ bytes x d, s.ds.respond (.write [s.wrVal &&& fill s.dir s.wrCnt.toNat]) = some (.ok bytes x, d))) ∧
    ∀ y, (i = .read ∧ t.status.code = .ioError ∧ s.arg1.toNat ≤ y ∧ y < s.arg1.toNat + s.arg0.toNat) ∨
      Memory.get t.buf y = Memory.get s.buf y

/-- R158: a read command that failed leaves the read accumulator, and READBIT and READBYTE leave BUF. -/
def Obligations.FailedReadKeepsAccumulator : Prop :=
  ∀ (i : Instr) (s t : State), isReadCommand i = true → exec i s = .next t → t.status.code ≠ .ok →
    t.rdVal = s.rdVal ∧ t.rdCnt = s.rdCnt ∧ (i ≠ .read → t.buf = s.buf)

/-- R175, R226: a write command that failed, and a FLUSH whose first request failed, leave the write accumulator as it was. -/
def Obligations.FailedWriteKeepsAccumulator : Prop :=
  ∀ (i : Instr) (s t : State), exec i s = .next t → t.status.code ≠ .ok →
    (isWriteCommand i = true ∨
      (i = .flush ∧ ∃ q e d, firstRequest .flush s = some q ∧ s.ds.respond q = some (.err e, d))) →
      t.wrVal = s.wrVal ∧ t.wrCnt = s.wrCnt

/-- R20, R45, R46, R47, R55, R225: what every command writes when it completes: IDLE, EOS only for a sentinel, STICKY_ERR
set by a failure and else kept, RES = 0 on a failure, IOERR only by IO_ERROR. -/
def Obligations.CompletionFlags : Prop :=
  ∀ (i : Instr) (s t : State), exec i s = .next t →
    t.fsm = .idle ∧ t.status.stickyErr = (s.status.stickyErr || decide (t.status.code ≠ .ok)) ∧
    (t.status.eos = true → (i = .readbit ∨ i = .readbyte) ∧ t.status.code = .ok ∧ t.res = 0xFFFFFFFFFFFFFFFF#64) ∧
    (t.status.code ≠ .ok → t.status.eos = false ∧ t.res = 0#64) ∧
    (t.status.code ≠ .ioError → t.ioerr = s.ioerr) ∧
    (i ∈ [Instr.writebit false, .writebit true, .writebiti, .write, .flush, .setpos, .setlen] → t.res = 0#64)

/-- R222, R223, R227, R228, R229: when each failure code of table 60-1 arises, BUFFER_RANGE among them whatever the
downstream would answer. That an ill-formed term (SEEK with ORG = 3, which no word decodes to) completes with
ILLEGAL_COMMAND is the model's (log entry 15, DEDUCED). -/
def Obligations.CodesByCommand : Prop :=
  ∀ (i : Instr) (s t : State), exec i s = .next t →
    (t.status.code = .invalidArgument ↔ i = .writebiti ∧ s.arg0 ≠ 0#64) ∧
    (t.status.code = .notSupported ↔ i = .seek 1#2 ∧ (s.rdCnt ≠ 0#4 ∨ s.wrCnt ≠ 0#4)) ∧
    (t.status.code = .bufferRange ↔ (i = .read ∨ i = .write) ∧ s.bufSize < s.arg1.toNat + s.arg0.toNat) ∧
    (t.status.code = .illegalCommand ↔ i.wellFormed = false) ∧
    (t.status.code = .ioError ↔ ∃ q e, (q, Answer.err e) ∈ issuedSince s t ∧ t.ioerr = e)

/-- R79, R80, R88: what a command asks of the downstream: at most two requests for FLUSH and one for every other, a read
of at least one byte, a write of one byte or of WRITE's n. -/
def Obligations.RequestsIssued : Prop :=
  ∀ (i : Instr) (s t : State), exec i s = .next t →
    ∃ l, t.dsLog = s.dsLog ++ l ∧ l.length ≤ (if i = .flush then 2 else 1) ∧
      ∀ p ∈ l, (∀ n, p.1 = .read n → 1 ≤ n) ∧
        ∀ bytes, p.1 = .write bytes → bytes.length = 1 ∨ (i = .write ∧ bytes.length = s.arg0.toNat)

/-- R41: the two accumulators are independent: what a command does not read does not change its outcome, and stays. -/
def Obligations.AccumulatorsIndependent : Prop :=
  (∀ (i : Instr) (s : State) (w : Byte) (c : Count), i ∉ [Instr.writebit false, .writebit true, .writebiti, .write,
      .flush, .seek 1#2] → exec i (s.setWr w c) = mapNext (·.setWr w c) (exec i s)) ∧
  ∀ (i : Instr) (s : State) (v : Byte) (c : Count), i ∉ [Instr.readbit, .readbyte, .read, .seek 1#2] →
    exec i (s.setRd v c) = mapNext (·.setRd v c) (exec i s)

/-- R84: no command but GETCAPS consults the capability flags. -/
def Obligations.CapabilitiesGateNothing : Prop :=
  ∀ (i : Instr) (s : State) (c : Caps), i ≠ .getcaps →
    exec i (s.withCaps c) = mapNext (·.withCaps c) (exec i s)

/-- R79: a read never gets more bytes than it asked for. -/
def Obligations.ReadAnswersAtMostN : Prop :=
  ∀ (d d' : Downstream) (n : Nat) (bytes : List Byte) (x : Word64),
    d.respond (.read n) = some (.ok bytes x, d') → bytes.length ≤ n

/-! ### Frames -/

/-- R33, R34, R41, R53: the frame of READBIT and READBYTE. -/
def Obligations.ReadbitReadbyteFrame : Prop :=
  ∀ (i : Instr) (s t : State), (i = .readbit ∨ i = .readbyte) → exec i s = .next t →
    sameSetting s t ∧ t.wrVal = s.wrVal ∧ t.wrCnt = s.wrCnt ∧ t.draws = s.draws ∧
    (t.status.code = .ok → t.ioerr = s.ioerr ∧ t.status.stickyErr = s.status.stickyErr) ∧
    (i = .readbyte → t.rdCnt = s.rdCnt) ∧ (i = .readbyte → s.rdCnt = 0#4 → t.rdVal = s.rdVal) ∧
    (i = .readbit → s.rdCnt ≠ 0#4 → t.rdVal = s.rdVal ∧ t.ds = s.ds ∧ t.dsLog = s.dsLog) ∧
    (∀ y, Memory.get t.buf y = Memory.get s.buf y)

/-- R41, R53, R154: the frame of READ; on OK the bytes past the count stay, on IO_ERROR those outside the range. -/
def Obligations.ReadFrame : Prop :=
  ∀ s t : State, Memory.wf s.buf = true → exec .read s = .next t →
    sameSetting s t ∧ t.wrVal = s.wrVal ∧ t.wrCnt = s.wrCnt ∧ t.rdCnt = s.rdCnt ∧
    (s.rdCnt = 0#4 → t.rdVal = s.rdVal) ∧
    (t.status.code = .ok → t.ioerr = s.ioerr ∧ t.status.stickyErr = s.status.stickyErr ∧ t.draws = s.draws ∧
      ∀ y, (y < s.arg1.toNat ∨ s.arg1.toNat + t.res.toNat ≤ y) → Memory.get t.buf y = Memory.get s.buf y) ∧
    (∀ y, (y < s.arg1.toNat ∨ s.arg1.toNat + s.arg0.toNat ≤ y) → Memory.get t.buf y = Memory.get s.buf y)

/-- R41, R53, R176: the frame of WRITEBIT, WRITEBITI, WRITE and FLUSH: the read accumulator and BUF stay. -/
def Obligations.WriteSideFrame : Prop :=
  ∀ (i : Instr) (s t : State), (isWriteCommand i = true ∨ i = .flush) → exec i s = .next t →
    sameSetting s t ∧ t.rdVal = s.rdVal ∧ t.rdCnt = s.rdCnt ∧ t.draws = s.draws ∧
    (t.status.code = .ok → t.ioerr = s.ioerr ∧ t.status.stickyErr = s.status.stickyErr) ∧
    (i = .write → t.wrCnt = s.wrCnt) ∧ (i = .write → s.wrCnt = 0#4 → t.wrVal = s.wrVal) ∧
    (i ≠ .write → i ≠ .flush → s.wrCnt.toNat < 7 → t.ds = s.ds ∧ t.dsLog = s.dsLog) ∧
    (∀ y, Memory.get t.buf y = Memory.get s.buf y)

/-- R41, R53, R199: the frame of SEEK, GETPOS, SETPOS, GETLEN, SETLEN and GETCAPS: both accumulators and BUF stay. -/
def Obligations.StreamControlFrame : Prop :=
  ∀ (i : Instr) (s t : State), isReadCommand i = false → isWriteCommand i = false → i ≠ .flush → exec i s = .next t →
    sameSetting s t ∧ t.rdVal = s.rdVal ∧ t.rdCnt = s.rdCnt ∧ t.wrVal = s.wrVal ∧ t.wrCnt = s.wrCnt ∧
    t.draws = s.draws ∧ (t.status.code = .ok → t.ioerr = s.ioerr ∧ t.status.stickyErr = s.status.stickyErr) ∧
    (i = .getcaps → t.ds = s.ds ∧ t.dsLog = s.dsLog) ∧ (∀ y, Memory.get t.buf y = Memory.get s.buf y)

/-! ### The reference memory stream -/

/-- R246: what the reference memory stream answers to a read. -/
def Obligations.MemoryStreamRead : Prop :=
  ∀ (r : Rms) (n : Nat), ∃ bytes x r', (Downstream.rms r).respond (.read n) = some (.ok bytes x, .rms r') ∧
    bytes.length = min n (r.content.length - r.pos) ∧
    (∀ j, j < bytes.length → bytes.getD j 0x00#8 = r.content.getD (r.pos + j) 0x00#8) ∧
    r'.content = r.content ∧ r'.pos = r.pos + bytes.length

/-- R247: what a write and a flush do to the reference memory stream, byte by byte. -/
def Obligations.MemoryStreamWrite : Prop :=
  ∀ (r : Rms) (bytes : List Byte),
    (∃ out x r', (Downstream.rms r).respond (.write bytes) = some (.ok out x, .rms r') ∧
      r'.pos = r.pos + bytes.length ∧ r'.content.length = max r.content.length (r.pos + bytes.length) ∧
      ∀ j, j < r'.content.length →
        r'.content.getD j 0xFF#8 =
          if r.pos ≤ j ∧ j < r.pos + bytes.length then bytes.getD (j - r.pos) 0x00#8 else r.content.getD j 0x00#8) ∧
    ∃ out x, (Downstream.rms r).respond .flush = some (.ok out x, .rms r)

/-- R248, R250: positioning the reference memory stream. A position answered is stated where 64-bit two's complement can
hold it (log entry 8). -/
def Obligations.MemoryStreamPositions : Prop :=
  ∀ (r : Rms) (v : Int),
    (∀ (o : Origin) (t : Int), t = (match o with | .begin => 0 | .current => (r.pos : Int) | .fromEnd => r.content.length) + v →
      (t < 0 → (Downstream.rms r).respond (.seek v o) = some (.err 1#32, .rms r)) ∧
      (0 ≤ t → ∃ out p, (Downstream.rms r).respond (.seek v o) = some (.ok out p, .rms { r with pos := t.toNat }) ∧
        (t < 2 ^ 63 → p.toInt = t))) ∧
    (v < 0 → (Downstream.rms r).respond (.setPos v) = some (.err 1#32, .rms r)) ∧
    (0 ≤ v → ∃ out x, (Downstream.rms r).respond (.setPos v) = some (.ok out x, .rms { r with pos := v.toNat })) ∧
    ∃ out p, (Downstream.rms r).respond .getPos = some (.ok out p, .rms r) ∧ (r.pos < 2 ^ 63 → p.toInt = r.pos)

/-- R249, R250: the length of the reference memory stream, read and set. -/
def Obligations.MemoryStreamLength : Prop :=
  ∀ (r : Rms) (v : Int),
    (∃ out p, (Downstream.rms r).respond .getLen = some (.ok out p, .rms r) ∧
      (r.content.length < 2 ^ 63 → p.toInt = r.content.length)) ∧
    (v < 0 → (Downstream.rms r).respond (.setLen v) = some (.err 1#32, .rms r)) ∧
    (0 ≤ v → ∃ out x r', (Downstream.rms r).respond (.setLen v) = some (.ok out x, .rms r') ∧ r'.pos = r.pos ∧
      r'.content.length = v.toNat ∧
      ∀ j, j < v.toNat → r'.content.getD j 0xFF#8 = r.content.getD j 0x00#8)
end

