-- ==== Sys2Proof/Laws/Downstream.lean ====
section
/-! SUPPORT. What the bound downstream can answer. -/

namespace Sys2Proof.Machine

/-- The reference memory stream always answers (rules R246 to R249). -/
@[simp] theorem Downstream.respond_rms (r : Rms) (q : Request) :
    (Downstream.rms r).respond q = some ((r.respond q).1, .rms (r.respond q).2) := rfl

/-- With no answer left a request is never answered (rule R86). -/
@[simp] theorem Downstream.respond_ext_nil (c : Caps) (q : Request) :
    (Downstream.ext { caps := c, answers := [] }).respond q = none := rfl

/-- The next answer, cut to the request's kind (rules R79 to R83). -/
@[simp] theorem Downstream.respond_ext_cons (c : Caps) (a : Answer) (rest : List Answer) (q : Request) :
    (Downstream.ext { caps := c, answers := a :: rest }).respond q =
      some (a.shapedFor q, .ext { caps := c, answers := rest }) := rfl

/-- An answer keeps its failure information (rule R85). -/
@[simp] theorem Answer.shapedFor_err (q : Request) (e : Word32) : (Answer.err e).shapedFor q = .err e := by
  cases q <;> rfl

/-- A stream answers as the kind of stream it is: the binding does not change (rule R261). -/
theorem Downstream.respond_kind {d d' : Downstream} {q : Request} {a : Answer} (h : d.respond q = some (a, d')) :
    (∃ r r', d = .rms r ∧ d' = .rms r') ∨ (∃ x x', d = .ext x ∧ d' = .ext x') := by
  cases d with
  | rms r =>
    simp only [Downstream.respond_rms, Option.some.injEq, Prod.mk.injEq] at h
    exact Or.inl ⟨r, _, rfl, h.2.symm⟩
  | ext x =>
    obtain ⟨c, _ | ⟨b, rest⟩⟩ := x
    · simp at h
    · simp only [Downstream.respond_ext_cons, Option.some.injEq, Prod.mk.injEq] at h
      exact Or.inr ⟨_, _, rfl, h.2.symm⟩

@[simp] theorem padTo_length (content : List Byte) (n : Nat) : (padTo content n).length = max content.length n := by
  simp [padTo]
  omega

end Sys2Proof.Machine
end

