-- ==== Sys2Proof/Laws/Engine.lean ====
section
/-! SUPPORT. The small lemmas of the Bit Order Policy and the Bulk Shift Engine. -/

namespace Sys2Proof.Machine

/-- Inside its domain the policy answers a physical position (rules R130, R131). -/
theorem pos_of_lt {k : Nat} (dir : Direction) (h : k < 8) :
    pos dir k = some (match dir with | .msbFirst => 7 - k | .lsbFirst => k) := by
  cases dir <;> simp [pos, h]

/-- Outside its domain it answers nothing (rule R131). -/
theorem pos_of_ge {k : Nat} (dir : Direction) (h : 8 ≤ k) : pos dir k = none := by
  simp [pos, Nat.not_lt.2 h]

/-- A position the policy answers lies in a byte. -/
theorem pos_lt {dir : Direction} {k p : Nat} (h : pos dir k = some p) : p < 8 := by
  unfold pos at h
  split at h
  · cases dir <;> simp at h <;> omega
  · cases h

@[simp] theorem spliceOut_nil (dir : Direction) (s : Nat) (c : Byte) : spliceOut dir s c [] = [] := rfl

@[simp] theorem spliceOut_cons (dir : Direction) (s : Nat) (c b : Byte) (rest : List Byte) :
    spliceOut dir s c (b :: rest) = funnel dir s c b :: spliceOut dir s b rest := rfl

/-- The engine gives one output byte per input byte (rule R138). -/
@[simp] theorem spliceOut_length (dir : Direction) (s : Nat) (c : Byte) (src : List Byte) :
    (spliceOut dir s c src).length = src.length := by
  induction src generalizing c with
  | nil => rfl
  | cons b rest ih => simp [ih]

@[simp] theorem spliceCarry_nil (c : Byte) : spliceCarry c [] = c := rfl

@[simp] theorem spliceCarry_cons (c b : Byte) (rest : List Byte) : spliceCarry c (b :: rest) = spliceCarry b rest := by
  cases rest <;> simp [spliceCarry, List.getLastD]

/-- Output byte `i` comes from input byte `i` and the byte before it, the carry byte for `i = 0` (rules R138, R141). -/
theorem spliceOut_getElem (dir : Direction) (s : Nat) (c : Byte) (src : List Byte) (i : Nat) (h : i < src.length) :
    (spliceOut dir s c src)[i]'(by simpa using h) =
      funnel dir s (if i = 0 then c else src.getD (i - 1) 0x00#8) src[i] := by
  induction src generalizing c i with
  | nil => cases h
  | cons b rest ih =>
    cases i with
    | zero => rfl
    | succ i =>
      have hi : i < rest.length := by simpa using h
      simp only [spliceOut_cons, List.getElem_cons_succ, ih b i hi, Nat.succ_ne_zero, if_false, Nat.add_sub_cancel]
      cases i with
      | zero => rfl
      | succ j => simp

/-- Everything `splice` can answer (rule R138): its domain, the output and the new carry. -/
theorem splice_eq_some_iff {dir : Direction} {s : Nat} {c c' : Byte} {src out : List Byte} :
    splice dir s c src = some (out, c') ↔
      (1 ≤ s ∧ s ≤ 7) ∧ out = spliceOut dir s c src ∧ c' = spliceCarry c src := by
  unfold splice
  split
  · rename_i h
    simp [h, eq_comm]
  · rename_i h
    simp [h]

/-- Outside 1..7 the engine answers nothing, whatever the bytes (rule R138). -/
theorem splice_eq_none_iff {dir : Direction} {s : Nat} {c : Byte} {src : List Byte} :
    splice dir s c src = none ↔ ¬(1 ≤ s ∧ s ≤ 7) := by
  unfold splice
  split <;> simp_all

end Sys2Proof.Machine
end

