-- ==== Sys2Proof/Laws/Memory.lean ====
section
/-! SUPPORT. The laws of BUF: a read after a write, everything else untouched, and the canonical form kept by every
operation. -/

namespace Sys2Proof.Machine

/-! ### The canonical form -/

theorem Memory.wfFrom_nil (lo : Nat) : Memory.wfFrom lo [] = true := rfl

theorem Memory.wfFrom_cons_iff (lo a : Nat) (v : Byte) (m : List Host.Cell) :
    Memory.wfFrom lo ((a, v) :: m) = true ↔ lo ≤ a ∧ v ≠ Config.unlistedByte ∧ Memory.wfFrom (a + 1) m = true := by
  simp [Memory.wfFrom, and_assoc]

/-- A canonical list that starts late enough also starts earlier. -/
theorem Memory.wfFrom_mono {lo lo' : Nat} (h : lo' ≤ lo) {m : List Host.Cell} (hm : Memory.wfFrom lo m = true) :
    Memory.wfFrom lo' m = true := by
  cases m with
  | nil => rfl
  | cons c m =>
    obtain ⟨a, v⟩ := c
    rw [Memory.wfFrom_cons_iff] at hm ⊢
    exact ⟨h.trans hm.1, hm.2⟩

/-- Putting a cell in front of a list that starts after it keeps the form. -/
theorem Memory.cons_wfFrom {lo a : Nat} (v : Byte) {m : List Host.Cell} (hlo : lo ≤ a)
    (hm : Memory.wfFrom (a + 1) m = true) : Memory.wfFrom lo (Memory.cons a v m) = true := by
  unfold Memory.cons
  split
  · exact Memory.wfFrom_mono (by omega) hm
  · rename_i hv
    rw [Memory.wfFrom_cons_iff]
    exact ⟨hlo, hv, hm⟩

theorem Memory.set_wfFrom (m : List Host.Cell) (lo a : Nat) (v : Byte) (hlo : lo ≤ a)
    (hm : Memory.wfFrom lo m = true) : Memory.wfFrom lo (Memory.set m a v) = true := by
  induction m generalizing lo with
  | nil => exact Memory.cons_wfFrom v hlo rfl
  | cons c m ih =>
    obtain ⟨b, w⟩ := c
    rw [Memory.wfFrom_cons_iff] at hm
    obtain ⟨hb, hw, hrest⟩ := hm
    unfold Memory.set
    split
    · rename_i hab
      exact Memory.cons_wfFrom v hlo ((Memory.wfFrom_cons_iff _ _ _ _).2 ⟨hab, hw, hrest⟩)
    · split
      · rename_i hab
        exact Memory.cons_wfFrom v hlo (hab ▸ hrest)
      · rw [Memory.wfFrom_cons_iff]
        exact ⟨hb, hw, ih (b + 1) (by omega) hrest⟩

/-- `BUF[a] <- v` keeps the canonical form. -/
theorem Memory.set_wf (m : List Host.Cell) (a : Nat) (v : Byte) (hm : Memory.wf m = true) :
    Memory.wf (Memory.set m a v) = true := Memory.set_wfFrom m 0 a v (Nat.zero_le a) hm

/-- `MemWrite` keeps the canonical form. -/
theorem Memory.write_wf (m : List Host.Cell) (a : Nat) (bytes : List Byte) (hm : Memory.wf m = true) :
    Memory.wf (Memory.write m a bytes) = true := by
  induction bytes generalizing m a with
  | nil => exact hm
  | cons v rest ih => exact ih _ _ (Memory.set_wf m a v hm)

/-! ### Reading after writing -/

/-- Below where a canonical list starts, nothing is listed. -/
theorem Memory.get_of_lt {lo a : Nat} {m : List Host.Cell} (hm : Memory.wfFrom lo m = true) (h : a < lo) :
    Memory.get m a = Config.unlistedByte := by
  induction m generalizing lo with
  | nil => rfl
  | cons c m ih =>
    obtain ⟨b, w⟩ := c
    rw [Memory.wfFrom_cons_iff] at hm
    have hne : b ≠ a := by omega
    simp only [Memory.get, hne, if_false]
    exact ih hm.2.2 (by omega)

theorem Memory.get_cons (a x : Nat) (v : Byte) {m : List Host.Cell} (hm : Memory.wfFrom (a + 1) m = true) :
    Memory.get (Memory.cons a v m) x = if x = a then v else Memory.get m x := by
  unfold Memory.cons
  split
  · rename_i hv
    split
    · rename_i hx
      rw [hv, hx]
      exact Memory.get_of_lt hm (by omega)
    · rfl
  · simp only [Memory.get, eq_comm]

/-- A read after a write: the byte written there, every other byte as before. -/
theorem Memory.get_set {m : List Host.Cell} {lo : Nat} (hm : Memory.wfFrom lo m = true) (a x : Nat) (v : Byte) :
    Memory.get (Memory.set m a v) x = if x = a then v else Memory.get m x := by
  induction m generalizing lo with
  | nil => exact Memory.get_cons a x v (Memory.wfFrom_nil _)
  | cons c m ih =>
    obtain ⟨b, w⟩ := c
    rw [Memory.wfFrom_cons_iff] at hm
    obtain ⟨_, hw, hrest⟩ := hm
    unfold Memory.set
    split
    · rename_i hab
      exact Memory.get_cons a x v ((Memory.wfFrom_cons_iff _ _ _ _).2 ⟨hab, hw, hrest⟩)
    · split
      · rename_i hab
        subst hab
        rw [Memory.get_cons a x v hrest]
        by_cases hx : x = a
        · simp [hx]
        · simp [Memory.get, hx, Ne.symm hx]
      · rename_i h1 h2
        simp only [Memory.get]
        by_cases hbx : b = x
        · have hxa : ¬x = a := by omega
          simp [hbx, hxa]
        · simp only [hbx, if_false]
          exact ih hrest

/-- `MemWrite` writes exactly the bytes of its range and leaves every other byte as it was. -/
theorem Memory.get_write {m : List Host.Cell} (hm : Memory.wf m = true) (a x : Nat) (bytes : List Byte) :
    Memory.get (Memory.write m a bytes) x =
      if a ≤ x ∧ x < a + bytes.length then bytes.getD (x - a) 0x00#8 else Memory.get m x := by
  induction bytes generalizing m a with
  | nil => simp [Memory.write]
  | cons v rest ih =>
    rw [Memory.write, ih (Memory.set_wf m a v hm), Memory.get_set (lo := 0) hm]
    by_cases h1 : a + 1 ≤ x ∧ x < a + 1 + rest.length
    · have h2 : a ≤ x ∧ x < a + (v :: rest).length := by simp only [List.length_cons]; omega
      obtain ⟨k, hk⟩ : ∃ k, x - a = k + 1 := ⟨x - a - 1, by omega⟩
      have hk' : x - (a + 1) = k := by omega
      rw [if_pos h1, if_pos h2, hk, hk', List.getD_cons_succ]
    · by_cases hx : x = a
      · subst hx
        simp
      · have h2 : ¬(a ≤ x ∧ x < a + (v :: rest).length) := by simp only [List.length_cons]; omega
        rw [if_neg h1, if_neg hx, if_neg h2]

@[simp] theorem Memory.read_length (m : List Host.Cell) (a n : Nat) : (Memory.read m a n).length = n := by
  simp [Memory.read]

theorem Memory.read_getElem (m : List Host.Cell) (a n i : Nat) (h : i < (Memory.read m a n).length) :
    (Memory.read m a n)[i] = Memory.get m (a + i) := by
  simp [Memory.read]

/-! ### Which addresses are listed -/

/-- Every cell of `Memory.cons` is the new one or an old one. -/
theorem Memory.mem_cons {a : Nat} {v : Byte} {m : List Host.Cell} {c : Host.Cell} (h : c ∈ Memory.cons a v m) :
    c.1 = a ∨ c ∈ m := by
  unfold Memory.cons at h
  split at h
  · exact Or.inr h
  · rcases List.mem_cons.1 h with rfl | h
    · exact Or.inl rfl
    · exact Or.inr h

/-- Every cell after `BUF[a] <- v` lies at `a` or was there. -/
theorem Memory.mem_set {a : Nat} {v : Byte} {m : List Host.Cell} {c : Host.Cell} (h : c ∈ Memory.set m a v) :
    c.1 = a ∨ c ∈ m := by
  induction m with
  | nil => exact Memory.mem_cons h
  | cons b m ih =>
    obtain ⟨b, w⟩ := b
    unfold Memory.set at h
    split at h
    · exact Memory.mem_cons h
    · split at h
      · rcases Memory.mem_cons h with h | h
        · exact Or.inl h
        · exact Or.inr (List.mem_cons_of_mem _ h)
      · rcases List.mem_cons.1 h with rfl | h
        · exact Or.inr List.mem_cons_self
        · rcases ih h with h | h
          · exact Or.inl h
          · exact Or.inr (List.mem_cons_of_mem _ h)

/-- Every cell after `MemWrite` lies in the range written or was there. -/
theorem Memory.mem_write {a : Nat} {bytes : List Byte} {m : List Host.Cell} {c : Host.Cell}
    (h : c ∈ Memory.write m a bytes) : (a ≤ c.1 ∧ c.1 < a + bytes.length) ∨ c ∈ m := by
  induction bytes generalizing m a with
  | nil => exact Or.inr h
  | cons v rest ih =>
    simp only [List.length_cons]
    rcases ih h with h | h
    · exact Or.inl (by omega)
    · rcases Memory.mem_set h with h | h
      · exact Or.inl (by omega)
      · exact Or.inr h

end Sys2Proof.Machine
end

