-- ==== Sys2Proof/Laws/State.lean ====
section
/-! SUPPORT. One lemma per field of State per named update, so that no proof unfolds a record update. -/

namespace Sys2Proof.Machine

variable (s : State)

/-! ### setRd -/

@[simp] theorem State.setRd_dir (v : Byte) (c : Count) : (s.setRd v c).dir = s.dir := rfl
@[simp] theorem State.setRd_rdVal (v : Byte) (c : Count) : (s.setRd v c).rdVal = v := rfl
@[simp] theorem State.setRd_rdCnt (v : Byte) (c : Count) : (s.setRd v c).rdCnt = c := rfl
@[simp] theorem State.setRd_wrVal (v : Byte) (c : Count) : (s.setRd v c).wrVal = s.wrVal := rfl
@[simp] theorem State.setRd_wrCnt (v : Byte) (c : Count) : (s.setRd v c).wrCnt = s.wrCnt := rfl
@[simp] theorem State.setRd_cmd (v : Byte) (c : Count) : (s.setRd v c).cmd = s.cmd := rfl
@[simp] theorem State.setRd_arg0 (v : Byte) (c : Count) : (s.setRd v c).arg0 = s.arg0 := rfl
@[simp] theorem State.setRd_arg1 (v : Byte) (c : Count) : (s.setRd v c).arg1 = s.arg1 := rfl
@[simp] theorem State.setRd_res (v : Byte) (c : Count) : (s.setRd v c).res = s.res := rfl
@[simp] theorem State.setRd_status (v : Byte) (c : Count) : (s.setRd v c).status = s.status := rfl
@[simp] theorem State.setRd_ioerr (v : Byte) (c : Count) : (s.setRd v c).ioerr = s.ioerr := rfl
@[simp] theorem State.setRd_fsm (v : Byte) (c : Count) : (s.setRd v c).fsm = s.fsm := rfl
@[simp] theorem State.setRd_bufSize (v : Byte) (c : Count) : (s.setRd v c).bufSize = s.bufSize := rfl
@[simp] theorem State.setRd_buf (v : Byte) (c : Count) : (s.setRd v c).buf = s.buf := rfl
@[simp] theorem State.setRd_ds (v : Byte) (c : Count) : (s.setRd v c).ds = s.ds := rfl
@[simp] theorem State.setRd_dsLog (v : Byte) (c : Count) : (s.setRd v c).dsLog = s.dsLog := rfl
@[simp] theorem State.setRd_script (v : Byte) (c : Count) : (s.setRd v c).script = s.script := rfl
@[simp] theorem State.setRd_draws (v : Byte) (c : Count) : (s.setRd v c).draws = s.draws := rfl

/-! ### setWr -/

@[simp] theorem State.setWr_dir (w : Byte) (c : Count) : (s.setWr w c).dir = s.dir := rfl
@[simp] theorem State.setWr_rdVal (w : Byte) (c : Count) : (s.setWr w c).rdVal = s.rdVal := rfl
@[simp] theorem State.setWr_rdCnt (w : Byte) (c : Count) : (s.setWr w c).rdCnt = s.rdCnt := rfl
@[simp] theorem State.setWr_wrVal (w : Byte) (c : Count) : (s.setWr w c).wrVal = w := rfl
@[simp] theorem State.setWr_wrCnt (w : Byte) (c : Count) : (s.setWr w c).wrCnt = c := rfl
@[simp] theorem State.setWr_cmd (w : Byte) (c : Count) : (s.setWr w c).cmd = s.cmd := rfl
@[simp] theorem State.setWr_arg0 (w : Byte) (c : Count) : (s.setWr w c).arg0 = s.arg0 := rfl
@[simp] theorem State.setWr_arg1 (w : Byte) (c : Count) : (s.setWr w c).arg1 = s.arg1 := rfl
@[simp] theorem State.setWr_res (w : Byte) (c : Count) : (s.setWr w c).res = s.res := rfl
@[simp] theorem State.setWr_status (w : Byte) (c : Count) : (s.setWr w c).status = s.status := rfl
@[simp] theorem State.setWr_ioerr (w : Byte) (c : Count) : (s.setWr w c).ioerr = s.ioerr := rfl
@[simp] theorem State.setWr_fsm (w : Byte) (c : Count) : (s.setWr w c).fsm = s.fsm := rfl
@[simp] theorem State.setWr_bufSize (w : Byte) (c : Count) : (s.setWr w c).bufSize = s.bufSize := rfl
@[simp] theorem State.setWr_buf (w : Byte) (c : Count) : (s.setWr w c).buf = s.buf := rfl
@[simp] theorem State.setWr_ds (w : Byte) (c : Count) : (s.setWr w c).ds = s.ds := rfl
@[simp] theorem State.setWr_dsLog (w : Byte) (c : Count) : (s.setWr w c).dsLog = s.dsLog := rfl
@[simp] theorem State.setWr_script (w : Byte) (c : Count) : (s.setWr w c).script = s.script := rfl
@[simp] theorem State.setWr_draws (w : Byte) (c : Count) : (s.setWr w c).draws = s.draws := rfl

/-! ### setBuf -/

@[simp] theorem State.setBuf_dir (m : List Host.Cell) : (s.setBuf m).dir = s.dir := rfl
@[simp] theorem State.setBuf_rdVal (m : List Host.Cell) : (s.setBuf m).rdVal = s.rdVal := rfl
@[simp] theorem State.setBuf_rdCnt (m : List Host.Cell) : (s.setBuf m).rdCnt = s.rdCnt := rfl
@[simp] theorem State.setBuf_wrVal (m : List Host.Cell) : (s.setBuf m).wrVal = s.wrVal := rfl
@[simp] theorem State.setBuf_wrCnt (m : List Host.Cell) : (s.setBuf m).wrCnt = s.wrCnt := rfl
@[simp] theorem State.setBuf_cmd (m : List Host.Cell) : (s.setBuf m).cmd = s.cmd := rfl
@[simp] theorem State.setBuf_arg0 (m : List Host.Cell) : (s.setBuf m).arg0 = s.arg0 := rfl
@[simp] theorem State.setBuf_arg1 (m : List Host.Cell) : (s.setBuf m).arg1 = s.arg1 := rfl
@[simp] theorem State.setBuf_res (m : List Host.Cell) : (s.setBuf m).res = s.res := rfl
@[simp] theorem State.setBuf_status (m : List Host.Cell) : (s.setBuf m).status = s.status := rfl
@[simp] theorem State.setBuf_ioerr (m : List Host.Cell) : (s.setBuf m).ioerr = s.ioerr := rfl
@[simp] theorem State.setBuf_fsm (m : List Host.Cell) : (s.setBuf m).fsm = s.fsm := rfl
@[simp] theorem State.setBuf_bufSize (m : List Host.Cell) : (s.setBuf m).bufSize = s.bufSize := rfl
@[simp] theorem State.setBuf_buf (m : List Host.Cell) : (s.setBuf m).buf = m := rfl
@[simp] theorem State.setBuf_ds (m : List Host.Cell) : (s.setBuf m).ds = s.ds := rfl
@[simp] theorem State.setBuf_dsLog (m : List Host.Cell) : (s.setBuf m).dsLog = s.dsLog := rfl
@[simp] theorem State.setBuf_script (m : List Host.Cell) : (s.setBuf m).script = s.script := rfl
@[simp] theorem State.setBuf_draws (m : List Host.Cell) : (s.setBuf m).draws = s.draws := rfl

/-! ### setIoerr -/

@[simp] theorem State.setIoerr_dir (e : Word32) : (s.setIoerr e).dir = s.dir := rfl
@[simp] theorem State.setIoerr_rdVal (e : Word32) : (s.setIoerr e).rdVal = s.rdVal := rfl
@[simp] theorem State.setIoerr_rdCnt (e : Word32) : (s.setIoerr e).rdCnt = s.rdCnt := rfl
@[simp] theorem State.setIoerr_wrVal (e : Word32) : (s.setIoerr e).wrVal = s.wrVal := rfl
@[simp] theorem State.setIoerr_wrCnt (e : Word32) : (s.setIoerr e).wrCnt = s.wrCnt := rfl
@[simp] theorem State.setIoerr_cmd (e : Word32) : (s.setIoerr e).cmd = s.cmd := rfl
@[simp] theorem State.setIoerr_arg0 (e : Word32) : (s.setIoerr e).arg0 = s.arg0 := rfl
@[simp] theorem State.setIoerr_arg1 (e : Word32) : (s.setIoerr e).arg1 = s.arg1 := rfl
@[simp] theorem State.setIoerr_res (e : Word32) : (s.setIoerr e).res = s.res := rfl
@[simp] theorem State.setIoerr_status (e : Word32) : (s.setIoerr e).status = s.status := rfl
@[simp] theorem State.setIoerr_ioerr (e : Word32) : (s.setIoerr e).ioerr = e := rfl
@[simp] theorem State.setIoerr_fsm (e : Word32) : (s.setIoerr e).fsm = s.fsm := rfl
@[simp] theorem State.setIoerr_bufSize (e : Word32) : (s.setIoerr e).bufSize = s.bufSize := rfl
@[simp] theorem State.setIoerr_buf (e : Word32) : (s.setIoerr e).buf = s.buf := rfl
@[simp] theorem State.setIoerr_ds (e : Word32) : (s.setIoerr e).ds = s.ds := rfl
@[simp] theorem State.setIoerr_dsLog (e : Word32) : (s.setIoerr e).dsLog = s.dsLog := rfl
@[simp] theorem State.setIoerr_script (e : Word32) : (s.setIoerr e).script = s.script := rfl
@[simp] theorem State.setIoerr_draws (e : Word32) : (s.setIoerr e).draws = s.draws := rfl

/-! ### setArgs -/

@[simp] theorem State.setArgs_dir (a0 : Word64) (a1 : Word32) : (s.setArgs a0 a1).dir = s.dir := rfl
@[simp] theorem State.setArgs_rdVal (a0 : Word64) (a1 : Word32) : (s.setArgs a0 a1).rdVal = s.rdVal := rfl
@[simp] theorem State.setArgs_rdCnt (a0 : Word64) (a1 : Word32) : (s.setArgs a0 a1).rdCnt = s.rdCnt := rfl
@[simp] theorem State.setArgs_wrVal (a0 : Word64) (a1 : Word32) : (s.setArgs a0 a1).wrVal = s.wrVal := rfl
@[simp] theorem State.setArgs_wrCnt (a0 : Word64) (a1 : Word32) : (s.setArgs a0 a1).wrCnt = s.wrCnt := rfl
@[simp] theorem State.setArgs_cmd (a0 : Word64) (a1 : Word32) : (s.setArgs a0 a1).cmd = s.cmd := rfl
@[simp] theorem State.setArgs_arg0 (a0 : Word64) (a1 : Word32) : (s.setArgs a0 a1).arg0 = a0 := rfl
@[simp] theorem State.setArgs_arg1 (a0 : Word64) (a1 : Word32) : (s.setArgs a0 a1).arg1 = a1 := rfl
@[simp] theorem State.setArgs_res (a0 : Word64) (a1 : Word32) : (s.setArgs a0 a1).res = s.res := rfl
@[simp] theorem State.setArgs_status (a0 : Word64) (a1 : Word32) : (s.setArgs a0 a1).status = s.status := rfl
@[simp] theorem State.setArgs_ioerr (a0 : Word64) (a1 : Word32) : (s.setArgs a0 a1).ioerr = s.ioerr := rfl
@[simp] theorem State.setArgs_fsm (a0 : Word64) (a1 : Word32) : (s.setArgs a0 a1).fsm = s.fsm := rfl
@[simp] theorem State.setArgs_bufSize (a0 : Word64) (a1 : Word32) : (s.setArgs a0 a1).bufSize = s.bufSize := rfl
@[simp] theorem State.setArgs_buf (a0 : Word64) (a1 : Word32) : (s.setArgs a0 a1).buf = s.buf := rfl
@[simp] theorem State.setArgs_ds (a0 : Word64) (a1 : Word32) : (s.setArgs a0 a1).ds = s.ds := rfl
@[simp] theorem State.setArgs_dsLog (a0 : Word64) (a1 : Word32) : (s.setArgs a0 a1).dsLog = s.dsLog := rfl
@[simp] theorem State.setArgs_script (a0 : Word64) (a1 : Word32) : (s.setArgs a0 a1).script = s.script := rfl
@[simp] theorem State.setArgs_draws (a0 : Word64) (a1 : Word32) : (s.setArgs a0 a1).draws = s.draws := rfl

/-! ### drew -/

@[simp] theorem State.drew_dir (n : Nat) : (s.drew n).dir = s.dir := rfl
@[simp] theorem State.drew_rdVal (n : Nat) : (s.drew n).rdVal = s.rdVal := rfl
@[simp] theorem State.drew_rdCnt (n : Nat) : (s.drew n).rdCnt = s.rdCnt := rfl
@[simp] theorem State.drew_wrVal (n : Nat) : (s.drew n).wrVal = s.wrVal := rfl
@[simp] theorem State.drew_wrCnt (n : Nat) : (s.drew n).wrCnt = s.wrCnt := rfl
@[simp] theorem State.drew_cmd (n : Nat) : (s.drew n).cmd = s.cmd := rfl
@[simp] theorem State.drew_arg0 (n : Nat) : (s.drew n).arg0 = s.arg0 := rfl
@[simp] theorem State.drew_arg1 (n : Nat) : (s.drew n).arg1 = s.arg1 := rfl
@[simp] theorem State.drew_res (n : Nat) : (s.drew n).res = s.res := rfl
@[simp] theorem State.drew_status (n : Nat) : (s.drew n).status = s.status := rfl
@[simp] theorem State.drew_ioerr (n : Nat) : (s.drew n).ioerr = s.ioerr := rfl
@[simp] theorem State.drew_fsm (n : Nat) : (s.drew n).fsm = s.fsm := rfl
@[simp] theorem State.drew_bufSize (n : Nat) : (s.drew n).bufSize = s.bufSize := rfl
@[simp] theorem State.drew_buf (n : Nat) : (s.drew n).buf = s.buf := rfl
@[simp] theorem State.drew_ds (n : Nat) : (s.drew n).ds = s.ds := rfl
@[simp] theorem State.drew_dsLog (n : Nat) : (s.drew n).dsLog = s.dsLog := rfl
@[simp] theorem State.drew_script (n : Nat) : (s.drew n).script = s.script := rfl
@[simp] theorem State.drew_draws (n : Nat) : (s.drew n).draws = s.draws + n := rfl

/-! ### heard -/

@[simp] theorem State.heard_dir (q : Request) (a : Answer) (d : Downstream) : (s.heard q a d).dir = s.dir := rfl
@[simp] theorem State.heard_rdVal (q : Request) (a : Answer) (d : Downstream) : (s.heard q a d).rdVal = s.rdVal := rfl
@[simp] theorem State.heard_rdCnt (q : Request) (a : Answer) (d : Downstream) : (s.heard q a d).rdCnt = s.rdCnt := rfl
@[simp] theorem State.heard_wrVal (q : Request) (a : Answer) (d : Downstream) : (s.heard q a d).wrVal = s.wrVal := rfl
@[simp] theorem State.heard_wrCnt (q : Request) (a : Answer) (d : Downstream) : (s.heard q a d).wrCnt = s.wrCnt := rfl
@[simp] theorem State.heard_cmd (q : Request) (a : Answer) (d : Downstream) : (s.heard q a d).cmd = s.cmd := rfl
@[simp] theorem State.heard_arg0 (q : Request) (a : Answer) (d : Downstream) : (s.heard q a d).arg0 = s.arg0 := rfl
@[simp] theorem State.heard_arg1 (q : Request) (a : Answer) (d : Downstream) : (s.heard q a d).arg1 = s.arg1 := rfl
@[simp] theorem State.heard_res (q : Request) (a : Answer) (d : Downstream) : (s.heard q a d).res = s.res := rfl
@[simp] theorem State.heard_status (q : Request) (a : Answer) (d : Downstream) : (s.heard q a d).status = s.status := rfl
@[simp] theorem State.heard_ioerr (q : Request) (a : Answer) (d : Downstream) : (s.heard q a d).ioerr = s.ioerr := rfl
@[simp] theorem State.heard_fsm (q : Request) (a : Answer) (d : Downstream) : (s.heard q a d).fsm = s.fsm := rfl
@[simp] theorem State.heard_bufSize (q : Request) (a : Answer) (d : Downstream) : (s.heard q a d).bufSize = s.bufSize := rfl
@[simp] theorem State.heard_buf (q : Request) (a : Answer) (d : Downstream) : (s.heard q a d).buf = s.buf := rfl
@[simp] theorem State.heard_ds (q : Request) (a : Answer) (d : Downstream) : (s.heard q a d).ds = d := rfl
@[simp] theorem State.heard_dsLog (q : Request) (a : Answer) (d : Downstream) : (s.heard q a d).dsLog = s.dsLog ++ [(q, a)] := rfl
@[simp] theorem State.heard_script (q : Request) (a : Answer) (d : Downstream) : (s.heard q a d).script = s.script := rfl
@[simp] theorem State.heard_draws (q : Request) (a : Answer) (d : Downstream) : (s.heard q a d).draws = s.draws := rfl

/-! ### accept -/

@[simp] theorem State.accept_dir (w : Word32) : (s.accept w).dir = s.dir := rfl
@[simp] theorem State.accept_rdVal (w : Word32) : (s.accept w).rdVal = s.rdVal := rfl
@[simp] theorem State.accept_rdCnt (w : Word32) : (s.accept w).rdCnt = s.rdCnt := rfl
@[simp] theorem State.accept_wrVal (w : Word32) : (s.accept w).wrVal = s.wrVal := rfl
@[simp] theorem State.accept_wrCnt (w : Word32) : (s.accept w).wrCnt = s.wrCnt := rfl
@[simp] theorem State.accept_cmd (w : Word32) : (s.accept w).cmd = w := rfl
@[simp] theorem State.accept_arg0 (w : Word32) : (s.accept w).arg0 = s.arg0 := rfl
@[simp] theorem State.accept_arg1 (w : Word32) : (s.accept w).arg1 = s.arg1 := rfl
@[simp] theorem State.accept_res (w : Word32) : (s.accept w).res = s.res := rfl
@[simp] theorem State.accept_status (w : Word32) : (s.accept w).status = s.status := rfl
@[simp] theorem State.accept_ioerr (w : Word32) : (s.accept w).ioerr = s.ioerr := rfl
@[simp] theorem State.accept_fsm (w : Word32) : (s.accept w).fsm = .busy := rfl
@[simp] theorem State.accept_bufSize (w : Word32) : (s.accept w).bufSize = s.bufSize := rfl
@[simp] theorem State.accept_buf (w : Word32) : (s.accept w).buf = s.buf := rfl
@[simp] theorem State.accept_ds (w : Word32) : (s.accept w).ds = s.ds := rfl
@[simp] theorem State.accept_dsLog (w : Word32) : (s.accept w).dsLog = s.dsLog := rfl
@[simp] theorem State.accept_script (w : Word32) : (s.accept w).script = s.script := rfl
@[simp] theorem State.accept_draws (w : Word32) : (s.accept w).draws = s.draws := rfl

/-! ### finish -/

@[simp] theorem State.finish_dir (code : Code) (r : Word64) (eos : Bool) : (s.finish code r eos).dir = s.dir := rfl
@[simp] theorem State.finish_rdVal (code : Code) (r : Word64) (eos : Bool) : (s.finish code r eos).rdVal = s.rdVal := rfl
@[simp] theorem State.finish_rdCnt (code : Code) (r : Word64) (eos : Bool) : (s.finish code r eos).rdCnt = s.rdCnt := rfl
@[simp] theorem State.finish_wrVal (code : Code) (r : Word64) (eos : Bool) : (s.finish code r eos).wrVal = s.wrVal := rfl
@[simp] theorem State.finish_wrCnt (code : Code) (r : Word64) (eos : Bool) : (s.finish code r eos).wrCnt = s.wrCnt := rfl
@[simp] theorem State.finish_cmd (code : Code) (r : Word64) (eos : Bool) : (s.finish code r eos).cmd = s.cmd := rfl
@[simp] theorem State.finish_arg0 (code : Code) (r : Word64) (eos : Bool) : (s.finish code r eos).arg0 = s.arg0 := rfl
@[simp] theorem State.finish_arg1 (code : Code) (r : Word64) (eos : Bool) : (s.finish code r eos).arg1 = s.arg1 := rfl
@[simp] theorem State.finish_res (code : Code) (r : Word64) (eos : Bool) : (s.finish code r eos).res = r := rfl
@[simp] theorem State.finish_status (code : Code) (r : Word64) (eos : Bool) : (s.finish code r eos).status = s.status.completed code eos := rfl
@[simp] theorem State.finish_ioerr (code : Code) (r : Word64) (eos : Bool) : (s.finish code r eos).ioerr = s.ioerr := rfl
@[simp] theorem State.finish_fsm (code : Code) (r : Word64) (eos : Bool) : (s.finish code r eos).fsm = .idle := rfl
@[simp] theorem State.finish_bufSize (code : Code) (r : Word64) (eos : Bool) : (s.finish code r eos).bufSize = s.bufSize := rfl
@[simp] theorem State.finish_buf (code : Code) (r : Word64) (eos : Bool) : (s.finish code r eos).buf = s.buf := rfl
@[simp] theorem State.finish_ds (code : Code) (r : Word64) (eos : Bool) : (s.finish code r eos).ds = s.ds := rfl
@[simp] theorem State.finish_dsLog (code : Code) (r : Word64) (eos : Bool) : (s.finish code r eos).dsLog = s.dsLog := rfl
@[simp] theorem State.finish_script (code : Code) (r : Word64) (eos : Bool) : (s.finish code r eos).script = s.script := rfl
@[simp] theorem State.finish_draws (code : Code) (r : Word64) (eos : Bool) : (s.finish code r eos).draws = s.draws := rfl

/-! ### hardReset -/

@[simp] theorem State.hardReset_dir (strap : Direction) (bind : Option Downstream) : (s.hardReset strap bind).dir = strap := rfl
@[simp] theorem State.hardReset_rdVal (strap : Direction) (bind : Option Downstream) : (s.hardReset strap bind).rdVal = 0x00#8 := rfl
@[simp] theorem State.hardReset_rdCnt (strap : Direction) (bind : Option Downstream) : (s.hardReset strap bind).rdCnt = 0#4 := rfl
@[simp] theorem State.hardReset_wrVal (strap : Direction) (bind : Option Downstream) : (s.hardReset strap bind).wrVal = 0x00#8 := rfl
@[simp] theorem State.hardReset_wrCnt (strap : Direction) (bind : Option Downstream) : (s.hardReset strap bind).wrCnt = 0#4 := rfl
@[simp] theorem State.hardReset_cmd (strap : Direction) (bind : Option Downstream) : (s.hardReset strap bind).cmd = 0#32 := rfl
@[simp] theorem State.hardReset_arg0 (strap : Direction) (bind : Option Downstream) : (s.hardReset strap bind).arg0 = 0#64 := rfl
@[simp] theorem State.hardReset_arg1 (strap : Direction) (bind : Option Downstream) : (s.hardReset strap bind).arg1 = 0#32 := rfl
@[simp] theorem State.hardReset_res (strap : Direction) (bind : Option Downstream) : (s.hardReset strap bind).res = 0#64 := rfl
@[simp] theorem State.hardReset_status (strap : Direction) (bind : Option Downstream) : (s.hardReset strap bind).status = Status.cleared := rfl
@[simp] theorem State.hardReset_ioerr (strap : Direction) (bind : Option Downstream) : (s.hardReset strap bind).ioerr = 0#32 := rfl
@[simp] theorem State.hardReset_fsm (strap : Direction) (bind : Option Downstream) : (s.hardReset strap bind).fsm = .idle := rfl
@[simp] theorem State.hardReset_bufSize (strap : Direction) (bind : Option Downstream) : (s.hardReset strap bind).bufSize = s.bufSize := rfl
@[simp] theorem State.hardReset_buf (strap : Direction) (bind : Option Downstream) : (s.hardReset strap bind).buf = s.buf := rfl
@[simp] theorem State.hardReset_ds (strap : Direction) (bind : Option Downstream) : (s.hardReset strap bind).ds = bind.getD s.ds := rfl
@[simp] theorem State.hardReset_dsLog (strap : Direction) (bind : Option Downstream) : (s.hardReset strap bind).dsLog = s.dsLog := rfl
@[simp] theorem State.hardReset_script (strap : Direction) (bind : Option Downstream) : (s.hardReset strap bind).script = s.script := rfl
@[simp] theorem State.hardReset_draws (strap : Direction) (bind : Option Downstream) : (s.hardReset strap bind).draws = s.draws := rfl

/-! ### The operand and operation views that read only untouched fields -/

@[simp] theorem State.count_heard (q : Request) (a : Answer) (d : Downstream) : (s.heard q a d).count = s.count := rfl
@[simp] theorem State.base_heard (q : Request) (a : Answer) (d : Downstream) : (s.heard q a d).base = s.base := rfl
@[simp] theorem State.count_accept (w : Word32) : (s.accept w).count = s.count := rfl
@[simp] theorem State.base_accept (w : Word32) : (s.accept w).base = s.base := rfl
@[simp] theorem State.freeBytes_heard (n : Nat) (q : Request) (a : Answer) (d : Downstream) :
    (s.heard q a d).freeBytes n = s.freeBytes n := rfl
@[simp] theorem State.freeBytes_length (n : Nat) : (s.freeBytes n).length = n := by simp [State.freeBytes]

/-! ### Completing a command -/

@[simp] theorem Status.completed_code (st : Status) (c : Code) (e : Bool) : (st.completed c e).code = c := rfl
@[simp] theorem Status.completed_eos (st : Status) (c : Code) (e : Bool) : (st.completed c e).eos = e := rfl
@[simp] theorem Status.completed_ok (st : Status) (e : Bool) :
    st.completed .ok e = { code := .ok, eos := e, stickyErr := st.stickyErr } := by simp [Status.completed]
theorem Status.completed_failure (st : Status) (c : Code) (e : Bool) (h : c ≠ .ok) :
    st.completed c e = { code := c, eos := e, stickyErr := true } := by simp [Status.completed, h]

/-- `raise` is a completion with RES = 0 and EOS = 0 (rule R20). -/
theorem State.fail_eq_finish (c : Code) : s.fail c = s.finish c 0#64 false := rfl

/-- `raise IO_ERROR(e)` writes IOERR and completes (rules R20, R47). -/
theorem State.failIo_eq_finish (e : Word32) : s.failIo e = (s.setIoerr e).finish .ioError 0#64 false := rfl

end Sys2Proof.Machine
end

