-- ==== Sys2Proof/Laws/HostPort.lean ====
section
/-! SUPPORT. Everything racing stores can do, said once. -/

namespace Sys2Proof.Machine

/-- A command that is no WRITE, or that no store meets in its range, runs as without the stores. -/
theorem runRaced_of_no_race {w : Word32} {stores : List Host.Cell} {s : State}
    (h : ¬(decode w = .ok .write ∧ s.inRangeAny stores = true)) : runRaced w stores s = runCommand w s := if_neg h

/-- A WRITE that a store meets in its range sends free bytes (rules R97, R265). -/
theorem runRaced_of_race {w : Word32} {stores : List Host.Cell} {s : State}
    (hw : decode w = .ok .write) (hr : s.inRangeAny stores = true) : runRaced w stores s = writeRaced (s.accept w) :=
  if_pos ⟨hw, hr⟩

/-- Racing stores change BUF and the counter of free values, and nothing else. -/
theorem raceAfter_changes (w : Word32) (stores : List Host.Cell) (s : State) :
    ∃ m k, raceAfter w stores s = (s.setBuf m).drew k := by
  induction stores generalizing s with
  | nil => exact ⟨s.buf, 0, rfl⟩
  | cons c rest ih =>
    obtain ⟨a, v⟩ := c
    unfold raceAfter
    split
    · obtain ⟨m, k, h⟩ := ih ((s.setBuf (Memory.write s.buf a (s.freeBytes 1))).drew 1)
      exact ⟨m, 1 + k, by rw [h]; simp [State.setBuf, State.drew, Nat.add_assoc]⟩
    · obtain ⟨m, k, h⟩ := ih (s.setBuf (Memory.set s.buf a v))
      exact ⟨m, k, by rw [h]; rfl⟩

/-- Racing stores keep BUF canonical. -/
theorem raceAfter_wf (w : Word32) (stores : List Host.Cell) (s : State) (h : Memory.wf s.buf = true) :
    Memory.wf (raceAfter w stores s).buf = true := by
  induction stores generalizing s with
  | nil => exact h
  | cons c rest ih =>
    obtain ⟨a, v⟩ := c
    unfold raceAfter
    split
    · exact ih _ (Memory.write_wf _ _ _ h)
    · exact ih _ (Memory.set_wf _ _ _ h)

/-- A byte that no racing store goes to stays. -/
theorem raceAfter_get_of_untouched {w : Word32} {stores : List Host.Cell} {s : State} {y : Nat}
    (hm : Memory.wf s.buf = true) (hy : ∀ c ∈ stores, c.1 ≠ y) :
    Memory.get (raceAfter w stores s).buf y = Memory.get s.buf y := by
  induction stores generalizing s with
  | nil => rfl
  | cons c rest ih =>
    obtain ⟨a, v⟩ := c
    have ha : y ≠ a := fun h => hy (a, v) (by simp) h.symm
    have hrest : ∀ c ∈ rest, c.1 ≠ y := fun c hc => hy c (List.mem_cons_of_mem _ hc)
    unfold raceAfter
    split
    · rw [ih (Memory.write_wf _ _ _ hm) hrest]
      exact (Memory.get_set hm a y _).trans (if_neg ha)
    · rw [ih (Memory.set_wf _ _ _ hm) hrest]
      exact (Memory.get_set hm a y _).trans (if_neg ha)

/-- A byte outside the range of a READ holds the last value a racing store put there (rule R265). -/
theorem raceAfter_get_stored {w : Word32} {earlier later : List Host.Cell} {s : State} {y : Nat} {v : Byte}
    (hm : Memory.wf s.buf = true) (hr : ¬(decode w = .ok .read ∧ s.inRange y = true)) (hy : ∀ c ∈ later, c.1 ≠ y) :
    Memory.get (raceAfter w (earlier ++ (y, v) :: later) s).buf y = v := by
  induction earlier generalizing s with
  | nil =>
    rw [List.nil_append, raceAfter, if_neg hr, raceAfter_get_of_untouched (Memory.set_wf _ _ _ hm) hy]
    exact (Memory.get_set hm y y v).trans (if_pos rfl)
  | cons c rest ih =>
    obtain ⟨a, u⟩ := c
    rw [List.cons_append, raceAfter]
    split
    · exact ih (Memory.write_wf _ _ _ hm) hr
    · exact ih (Memory.set_wf _ _ _ hm) hr

end Sys2Proof.Machine
end

