-- ==== Sys2Proof/Laws/Ops.lean ====
section
/-! SUPPORT. Everything one downstream transaction can do, said once. -/

namespace Sys2Proof.Machine

/-- A request that is never answered leaves the core stuck (rule R86). -/
theorem ask_unanswered {q : Request} {s : State} (k : State → Answer → Result) (h : s.ds.respond q = none) :
    ask q s k = .fault .unanswered := by simp [ask, h]

/-- A request that is answered goes on with the answer recorded (rule R52). -/
theorem ask_answered {q : Request} {s : State} {a : Answer} {d : Downstream} (k : State → Answer → Result)
    (h : s.ds.respond q = some (a, d)) : ask q s k = k (s.heard q a d) a := by simp [ask, h]

/-- If a transaction leads to a next state, the downstream answered and what follows led there. -/
theorem ask_next {q : Request} {s t : State} {k : State → Answer → Result} (h : ask q s k = .next t) :
    ∃ a d, s.ds.respond q = some (a, d) ∧ k (s.heard q a d) a = .next t := by
  cases hr : s.ds.respond q with
  | none => simp [ask, hr] at h
  | some p =>
    obtain ⟨a, d⟩ := p
    exact ⟨a, d, rfl, by simpa [ask, hr] using h⟩

theorem request_unanswered {q : Request} {s : State} (k : State → List Byte → Word64 → Result)
    (h : s.ds.respond q = none) : request q s k = .fault .unanswered := ask_unanswered _ h

/-- A failed request ends the command with IO_ERROR and the downstream's information (rules R85, R223). -/
theorem request_failed {q : Request} {s : State} {e : Word32} {d : Downstream}
    (k : State → List Byte → Word64 → Result) (h : s.ds.respond q = some (.err e, d)) :
    request q s k = .next ((s.heard q (.err e) d).failIo e) := ask_answered _ h

theorem request_answered {q : Request} {s : State} {bytes : List Byte} {v : Word64} {d : Downstream}
    (k : State → List Byte → Word64 → Result) (h : s.ds.respond q = some (.ok bytes v, d)) :
    request q s k = k (s.heard q (.ok bytes v) d) bytes v := ask_answered _ h

/-- If a request leads to a next state, it failed and ended the command, or it was answered and the command went on. -/
theorem request_next {q : Request} {s t : State} {k : State → List Byte → Word64 → Result}
    (h : request q s k = .next t) :
    (∃ e d, s.ds.respond q = some (.err e, d) ∧ t = (s.heard q (.err e) d).failIo e) ∨
      (∃ bytes v d, s.ds.respond q = some (.ok bytes v, d) ∧ k (s.heard q (.ok bytes v) d) bytes v = .next t) := by
  obtain ⟨a, d, hr, hk⟩ := ask_next h
  cases a with
  | err e => exact Or.inl ⟨e, d, hr, by simpa using hk.symm⟩
  | ok bytes v => exact Or.inr ⟨bytes, v, d, hr, hk⟩

/-- The kind of stream bound to the port survives a transaction (rule R261). -/
theorem State.heard_kind {s : State} {q : Request} {a : Answer} {d : Downstream} (h : s.ds.respond q = some (a, d)) :
    (∃ r r', s.ds = .rms r ∧ (s.heard q a d).ds = .rms r') ∨ (∃ x x', s.ds = .ext x ∧ (s.heard q a d).ds = .ext x') :=
  Downstream.respond_kind h

end Sys2Proof.Machine
end

