-- ==== Sys2Proof/Laws/PerInstr.lean ====
section
/-! SUPPORT. Per-instruction families over `Instr` as syntax. `CommandWord`: the encoder gives each command the word the
`encoding` column of table 30-3 gives it, its field bits filled in. -/

namespace Sys2Proof.Laws

/-- Every command's word has the fixed bits of its row of table 30-3 under the row's mask (rule R103). -/
def CommandWord.Statement (i : Instr) : Prop := encode i &&& (rowOf i).mask = (rowOf i).pattern

theorem CommandWord.readbit : CommandWord.Statement .readbit := by unfold CommandWord.Statement; decide
theorem CommandWord.readbyte : CommandWord.Statement .readbyte := by unfold CommandWord.Statement; decide
theorem CommandWord.read : CommandWord.Statement .read := by unfold CommandWord.Statement; decide
theorem CommandWord.writebit (b : Bool) : CommandWord.Statement (.writebit b) := by
  unfold CommandWord.Statement; cases b <;> decide
theorem CommandWord.writebiti : CommandWord.Statement .writebiti := by unfold CommandWord.Statement; decide
theorem CommandWord.write : CommandWord.Statement .write := by unfold CommandWord.Statement; decide
theorem CommandWord.flush : CommandWord.Statement .flush := by unfold CommandWord.Statement; decide
theorem CommandWord.seek (org : BitVec 2) : CommandWord.Statement (.seek org) := by
  unfold CommandWord.Statement; revert org; decide
theorem CommandWord.getpos : CommandWord.Statement .getpos := by unfold CommandWord.Statement; decide
theorem CommandWord.setpos : CommandWord.Statement .setpos := by unfold CommandWord.Statement; decide
theorem CommandWord.getlen : CommandWord.Statement .getlen := by unfold CommandWord.Statement; decide
theorem CommandWord.setlen : CommandWord.Statement .setlen := by unfold CommandWord.Statement; decide
theorem CommandWord.getcaps : CommandWord.Statement .getcaps := by unfold CommandWord.Statement; decide

end Sys2Proof.Laws
end

