-- ==== Sys2Proof/Laws/WritePath.lean ====
section
/-! SUPPORT. Everything the shared operations of WRITE can do, said once. -/

namespace Sys2Proof.Machine

/-- If the end of an aligned WRITE leads to a next state, the one write failed, or it was accepted and nothing else changed. -/
theorem sendAligned_next {out : List Byte} {s t : State} (h : sendAligned out s = .next t) :
    ∃ a d, s.ds.respond (.write out) = some (a, d) ∧
      ((∃ e, a = .err e ∧ t = (s.heard (.write out) a d).failIo e) ∨
        ((∃ bytes v, a = .ok bytes v) ∧ t = (s.heard (.write out) a d).finish .ok 0#64 false)) := by
  rcases request_next h with ⟨e, d, hr, rfl⟩ | ⟨bytes, v, d, hr, hk⟩
  · exact ⟨.err e, d, hr, Or.inl ⟨e, rfl, rfl⟩⟩
  · exact ⟨.ok bytes v, d, hr, Or.inr ⟨⟨bytes, v, rfl⟩, by simpa using hk.symm⟩⟩

/-- If the end of an unaligned WRITE leads to a next state, the one write failed and the accumulator stays, or it was
accepted and WR_VAL is the carry byte in canonical form. -/
theorem sendUnaligned_next {out : List Byte} {carry : Byte} {s t : State} (h : sendUnaligned out carry s = .next t) :
    ∃ a d, s.ds.respond (.write out) = some (a, d) ∧
      ((∃ e, a = .err e ∧ t = (s.heard (.write out) a d).failIo e) ∨
        ((∃ bytes v, a = .ok bytes v) ∧
          t = ((s.heard (.write out) a d).setWr (fromRaw s.dir s.wrCnt.toNat carry) s.wrCnt).finish .ok 0#64 false)) := by
  rcases request_next h with ⟨e, d, hr, rfl⟩ | ⟨bytes, v, d, hr, hk⟩
  · exact ⟨.err e, d, hr, Or.inl ⟨e, rfl, rfl⟩⟩
  · exact ⟨.ok bytes v, d, hr, Or.inr ⟨⟨bytes, v, rfl⟩, by simpa using hk.symm⟩⟩

/-- WRITE-UNALIGNED is the end of an unaligned WRITE on the engine's output; its count is in the engine's domain. -/
theorem writeUnaligned_next {src : List Byte} {s t : State} (h : writeUnaligned src s = .next t) :
    (1 ≤ s.wrCnt.toNat ∧ s.wrCnt.toNat ≤ 7) ∧
      sendUnaligned (spliceOut s.dir s.wrCnt.toNat (toRaw s.dir s.wrCnt.toNat s.wrVal) src)
        (spliceCarry (toRaw s.dir s.wrCnt.toNat s.wrVal) src) s = .next t := by
  unfold writeUnaligned splice at h
  by_cases hc : 1 ≤ s.wrCnt.toNat ∧ s.wrCnt.toNat ≤ 7
  · rw [if_pos hc] at h
    exact ⟨hc, h⟩
  · rw [if_neg hc] at h
    cases h

/-- If a raced WRITE leads to a next state, its range is not in BUF, or it is the end of a WRITE of some `n` bytes, with
some carry byte when bits are pending; nothing but the counter of free values changed before. -/
theorem writeRaced_next {s t : State} (h : writeRaced s = .next t) :
    (s.outOfBuf = true ∧ t = s.fail .bufferRange) ∨
      (s.outOfBuf = false ∧ ∃ out k, out.length = s.count ∧
        ((s.wrCnt = 0#4 ∧ sendAligned out (s.drew k) = .next t) ∨
          (s.wrCnt ≠ 0#4 ∧ s.wrCnt.toNat ≤ 7 ∧ ∃ carry, sendUnaligned out carry (s.drew k) = .next t))) := by
  unfold writeRaced at h
  by_cases ho : s.outOfBuf = true
  · rw [if_pos ho] at h
    exact Or.inl ⟨ho, by simpa using h.symm⟩
  · rw [if_neg ho] at h
    refine Or.inr ⟨by simpa using ho, ?_⟩
    by_cases hz : s.wrCnt = 0#4
    · rw [if_pos hz] at h
      exact ⟨_, _, s.freeBytes_length _, Or.inl ⟨hz, h⟩⟩
    · rw [if_neg hz] at h
      by_cases h7 : s.wrCnt.toNat ≤ 7
      · rw [if_pos h7] at h
        exact ⟨_, _, s.freeBytes_length _, Or.inr ⟨hz, h7, _, h⟩⟩
      · rw [if_neg h7] at h
        cases h

end Sys2Proof.Machine
end

