-- ==== Sys2Proof/Tests/Slice0.lean ====
section
/-! SUPPORT. The model's own tests: words of table 30-3 decoded, single steps with results from 95_test_vectors.md, and a
witness for the hypotheses of every statement. -/

namespace Sys2Proof.Tests

open Sys2Proof Sys2Proof.Machine

/-! ### Helpers -/

/-- The next state of an outcome. -/
def nextOf : Result → Option State
  | .next t => some t
  | .fault _ => none
  | .refused _ => none

/-- A reset core with a 16-byte BUF, direction `d`, over a memory stream (95_test_vectors.md, conventions). -/
def overStream (d : Direction) (content : List Byte) : State :=
  { State.reset with dir := d, bufSize := 16, ds := .rms { content := content, pos := 0 } }

/-- The same core over an external downstream that gives these answers. -/
def overAnswers (d : Direction) (answers : List Answer) : State :=
  { State.reset with
    dir := d, bufSize := 16, ds := .ext { caps := { canRead := true, canWrite := true, canSeek := false }, answers := answers } }

/-- The three bytes of most vectors. -/
def threeBytes : List Byte := [0x2D#8, 0xDD#8, 0xB5#8]

/-- A core with `p` of 0x2D's bits unread and the stream just behind 0x2D (V-R1, V-R2). -/
def midByte (d : Direction) (p : Count) : State :=
  { overStream d threeBytes with rdVal := 0x2D#8, rdCnt := p, ds := .rms { content := threeBytes, pos := 1 } }

/-- A core with `f` bits placed in `w`, BUF[0..2] = 12 34 56 (V-W3). -/
def midWrite (d : Direction) (w : Byte) (f : Count) : State :=
  { overStream d [] with wrVal := w, wrCnt := f, buf := [(0, 0x12#8), (1, 0x34#8), (2, 0x56#8)] }

/-- Every answer is the failure 0x1234 (V-R8, V-W6). -/
def failing (d : Direction) : State := overAnswers d [.err 0x1234#32, .err 0x1234#32]

/-! ### Well-formedness and decoding -/

/-- The one ill-formed field value: ORG = 3 on SEEK (table 30-3). -/
theorem test_wellFormed_refuses_org_3 : (Instr.seek 3#2).wellFormed = false ∧ (Instr.seek 2#2).wellFormed = true := by decide

theorem test_decode_readbit : decode 0b00000000000000000000000000000001#32 = .ok .readbit := by decide
theorem test_decode_readbyte : decode 0b00000000000000000000000000000010#32 = .ok .readbyte := by decide
theorem test_decode_read : decode 0b00000000000000000000000000000011#32 = .ok .read := by decide
theorem test_decode_writebit_0 : decode 0b00000000000000000000000000000100#32 = .ok (.writebit false) := by decide
theorem test_decode_writebit_1 : decode 0b00000000000000000000000100000100#32 = .ok (.writebit true) := by decide
theorem test_decode_writebiti : decode 0b00000000000000000000000000000101#32 = .ok .writebiti := by decide
theorem test_decode_write : decode 0b00000000000000000000000000000110#32 = .ok .write := by decide
theorem test_decode_flush : decode 0b00000000000000000000000000000111#32 = .ok .flush := by decide
theorem test_decode_seek_begin : decode 0b00000000000000000000000000001000#32 = .ok (.seek 0#2) := by decide
theorem test_decode_seek_current : decode 0b00000000000000000000001000001000#32 = .ok (.seek 1#2) := by decide
theorem test_decode_seek_end : decode 0b00000000000000000000010000001000#32 = .ok (.seek 2#2) := by decide
theorem test_decode_getpos : decode 0b00000000000000000000000000001001#32 = .ok .getpos := by decide
theorem test_decode_setpos : decode 0b00000000000000000000000000001010#32 = .ok .setpos := by decide
theorem test_decode_getlen : decode 0b00000000000000000000000000001011#32 = .ok .getlen := by decide
theorem test_decode_setlen : decode 0b00000000000000000000000000001100#32 = .ok .setlen := by decide
theorem test_decode_getcaps : decode 0b00000000000000000000000000001101#32 = .ok .getcaps := by decide

/-- V-D1: the illegal words, each with the first cause in the order of rule R105. -/
theorem test_illegal_words :
    decode 0x00000000#32 = .error .unknownOpcode ∧ decode 0x0000000E#32 = .error .unknownOpcode ∧
      decode 0x000000FF#32 = .error .unknownOpcode ∧ decode 0x00000101#32 = .error .strayB ∧
      decode 0x00000105#32 = .error .strayB ∧ decode 0x00000201#32 = .error .strayOrg ∧
      decode 0x00000204#32 = .error .strayOrg ∧ decode 0x00000608#32 = .error .badOrigin ∧
      decode 0x00000800#32 = .error .reservedBits ∧ decode 0x01000003#32 = .error .reservedBits ∧
      decode 0x80000001#32 = .error .reservedBits := by decide

theorem test_encode_seek_end : encode (.seek 2#2) = 0x00000408#32 := by decide

theorem test_decodeTableWord : decodeTableWord 32 0x104 = some (.writebit true) ∧ decodeTableWord 32 0x608 = none := by decide

/-! ### Assembly lines (rules R106, R107) -/

theorem test_parse_seek :
    parseLine ['S', 'E', 'E', 'K', ' ', '-', '3', ',', ' ', 'C', 'U', 'R', 'R', 'E', 'N', 'T'] =
      some (.seek (-3) .current) := by decide

theorem test_parse_read : parseLine ['R', 'E', 'A', 'D', ' ', '0', 'x', '1', 'F', ',', ' ', '4'] = some (.read 31 4) := by decide

/-- P3 row 10. -/
theorem test_assemble_seek :
    assemble (.seek (-3) .current) = { cmd := 0x00000208#32, arg0 := 0xFFFFFFFFFFFFFFFD#64, arg1 := 0#32 } := by decide

/-! ### The engine (V-P2, V-E1, V-E3, V-E5, V-E6) -/

theorem test_fill : (List.range 9).map (fill .msbFirst) =
    [0x00#8, 0x80#8, 0xC0#8, 0xE0#8, 0xF0#8, 0xF8#8, 0xFC#8, 0xFE#8, 0xFF#8] := by decide

theorem test_unread : unread .msbFirst 3 = 0x07#8 ∧ unread .lsbFirst 3 = 0xE0#8 := by decide

theorem test_funnel_msb : [1, 2, 3, 4, 5, 6, 7].map (fun s => funnel .msbFirst s 0x2D#8 0xDD#8) =
    [0xEE#8, 0x77#8, 0xBB#8, 0xDD#8, 0x6E#8, 0xB7#8, 0x5B#8] := by decide

theorem test_funnel_lsb : [1, 2, 3, 4, 5, 6, 7].map (fun s => funnel .lsbFirst s 0x2D#8 0xDD#8) =
    [0xBA#8, 0x74#8, 0xE9#8, 0xD2#8, 0xA5#8, 0x4B#8, 0x96#8] := by decide

theorem test_splice : splice .lsbFirst 3 0x2D#8 [0xDD#8, 0xB5#8] = some ([0xE9#8, 0xAE#8], 0xB5#8) := by decide

theorem test_ascending_is_wrong :
    inPlaceAscending .msbFirst 3 0x2D#8 [0xDD#8, 0xB5#8, 0x12#8] = [0xBB#8, 0x76#8, 0xC2#8] ∧
      inPlaceDescending .msbFirst 3 0x2D#8 [0xDD#8, 0xB5#8, 0x12#8] = [0xBB#8, 0xB6#8, 0xA2#8] := by decide

theorem test_carry_forms : toRaw .lsbFirst 3 0x05#8 = 0xA0#8 ∧ fromRaw .lsbFirst 3 0xA0#8 = 0x05#8 ∧
    toRaw .msbFirst 7 0xFE#8 = 0x7F#8 := by decide

/-! ### One command each -/

/-- V-R1 row 3: the third bit of 0x2D under MSB_FIRST. -/
theorem test_readbit_third : (nextOf (exec .readbit (midByte .msbFirst 6#4))).map (fun t => (t.res, t.rdVal, t.rdCnt)) =
    some (1#64, 0x2D#8, 5#4) := by decide

/-- L1-5: at end-of-data the sentinel, with EOS. -/
theorem test_readbit_sentinel : (nextOf (exec .readbit (overStream .lsbFirst []))).map
    (fun t => (t.res, t.status, t.rdCnt)) =
    some (0xFFFFFFFFFFFFFFFF#64, { code := .ok, eos := true, stickyErr := false }, 0#4) := by decide

/-- V-R2 row 4. -/
theorem test_readbyte_unaligned : (nextOf (exec .readbyte (midByte .msbFirst 5#4))).map (fun t => (t.res, t.rdVal, t.rdCnt)) =
    some (0x6E#64, 0xDD#8, 5#4) := by decide

/-- V-R2 row 7: the pending bits stay. -/
theorem test_readbyte_exhausted : (nextOf (exec .readbyte { overStream .lsbFirst [] with rdVal := 0xB5#8, rdCnt := 4#4 })).map
    (fun t => (t.res, t.rdVal, t.rdCnt)) = some (0xFFFFFFFFFFFFFFFF#64, 0xB5#8, 4#4) := by decide

/-- V-R4 row 1, LSB_FIRST. -/
theorem test_read_unaligned : (nextOf (exec .read { midByte .lsbFirst 5#4 with arg0 := 2#64 })).map
    (fun t => (t.res, t.buf, t.rdVal, t.rdCnt)) = some (2#64, [(0, 0xA5#8), (1, 0xBB#8)], 0xB5#8, 5#4) := by decide

/-- V-R8: the failure reaches IOERR, the accumulator stays. -/
theorem test_read_failed : (nextOf (exec .read { failing .msbFirst with arg0 := 2#64 })).map
    (fun t => (t.status.code, t.ioerr, t.rdCnt)) = some (.ioError, 0x1234#32, 0#4) := by decide

/-- V-W1: the eighth bit sends D3. -/
theorem test_writebit_eighth : (nextOf (exec (.writebit true) (midWrite .msbFirst 0xD2#8 7#4))).map
    (fun t => (t.wrVal, t.wrCnt, t.ds)) = some (0x00#8, 0#4, .rms { content := [0xD3#8], pos := 1 }) := by decide

/-- V-W1: the third bit under LSB_FIRST. -/
theorem test_writebit_third : (nextOf (exec (.writebit true) (midWrite .lsbFirst 0x01#8 2#4))).map
    (fun t => (t.wrVal, t.wrCnt)) = some (0x05#8, 3#4) := by decide

/-- V-W2: 1 is rejected. -/
theorem test_writebiti_one : (nextOf (exec .writebiti { midWrite .msbFirst 0x80#8 1#4 with arg0 := 1#64 })).map
    (fun t => (t.status.code, t.wrVal, t.wrCnt)) = some (.invalidArgument, 0x80#8, 1#4) := by decide

theorem test_writebiti_zero : (nextOf (exec .writebiti (midWrite .msbFirst 0x80#8 1#4))).map
    (fun t => (t.status.code, t.wrVal, t.wrCnt)) = some (.ok, 0x80#8, 2#4) := by decide

/-- V-W3, both directions. -/
theorem test_write_msb : (nextOf (exec .write { midWrite .msbFirst 0xA0#8 3#4 with arg0 := 3#64 })).map
    (fun t => (t.wrVal, t.wrCnt, t.ds)) =
    some (0xC0#8, 3#4, .rms { content := [0xA2#8, 0x46#8, 0x8A#8], pos := 3 }) := by decide

theorem test_write_lsb : (nextOf (exec .write { midWrite .lsbFirst 0x05#8 3#4 with arg0 := 3#64 })).map
    (fun t => (t.wrVal, t.wrCnt, t.ds)) =
    some (0x02#8, 3#4, .rms { content := [0x95#8, 0xA0#8, 0xB1#8], pos := 3 }) := by decide

/-- V-S4 row 1. -/
theorem test_flush : (nextOf (exec .flush (midWrite .msbFirst 0xA0#8 3#4))).map (fun t => (t.wrVal, t.wrCnt, t.dsLog)) =
    some (0x00#8, 0#4, [(.write [0xA0#8], .ok [] 0#64), (.flush, .ok [] 0#64)]) := by decide

/-- V-S4 row 4: the commit point. -/
theorem test_flush_commit : (nextOf (exec .flush
    { overAnswers .msbFirst [.ok [] 0#64, .err 0x1234#32] with wrVal := 0x80#8, wrCnt := 1#4 })).map
    (fun t => (t.status.code, t.ioerr, t.wrVal, t.wrCnt)) = some (.ioError, 0x1234#32, 0x00#8, 0#4) := by decide

/-- V-S1 row 3. -/
theorem test_seek_end : (nextOf (exec (.seek 2#2) { overStream .msbFirst threeBytes with arg0 := 0xFFFFFFFFFFFFFFFE#64 })).map
    (fun t => (t.res, t.ds)) = some (1#64, .rms { content := threeBytes, pos := 1 }) := by decide

/-- V-S3 row 2. -/
theorem test_seek_pending : (nextOf (exec (.seek 1#2) (midByte .msbFirst 7#4))).map
    (fun t => (t.status.code, t.rdVal, t.rdCnt, t.dsLog)) = some (.notSupported, 0x2D#8, 7#4, []) := by decide

theorem test_getpos : (nextOf (exec .getpos (midByte .msbFirst 7#4))).map (·.res) = some 1#64 := by decide

/-- V-S1 row 7. -/
theorem test_setpos_negative : (nextOf (exec .setpos { overStream .msbFirst threeBytes with arg0 := 0xFFFFFFFFFFFFFFFD#64 })).map
    (fun t => (t.status.code, t.ioerr)) = some (.ioError, 1#32) := by decide

theorem test_getlen : (nextOf (exec .getlen (overStream .msbFirst threeBytes))).map (·.res) = some 3#64 := by decide

/-- V-S1 row 12. -/
theorem test_setlen_pads : (nextOf (exec .setlen { overStream .msbFirst [0x2D#8, 0xDD#8] with arg0 := 4#64 })).map (·.ds) =
    some (.rms { content := [0x2D#8, 0xDD#8, 0x00#8, 0x00#8], pos := 0 }) := by decide

theorem test_getcaps : (nextOf (exec .getcaps (overStream .msbFirst []))).map (·.res) = some 7#64 := by decide

/-! ### The host port -/

/-- P4 row 1, as the very first event after reset. -/
theorem test_step_illegal : (nextOf (step (State.reset.withFetchWord 32 0x0E))).map (fun t => (t.status.code, t.statusWord)) =
    some (.illegalCommand, 0x14#32) := by decide

/-- Rule R265: a host store outside the range of a racing READ lands. -/
theorem test_race_outside : (nextOf (step { overStream .msbFirst threeBytes with
    script := [.command 0x00000003#32 2#64 0#32 [(5, 0x77#8)]] })).map (fun t => t.buf) =
    some [(0, 0x2D#8), (1, 0xDD#8), (5, 0x77#8)] := by decide

/-- Rule R97: a WRITE that meets a host store in its range is still one write of n bytes; WR_CNT stays, the store lands. -/
theorem test_race_write : (nextOf (step { midWrite .msbFirst 0xA0#8 3#4 with
    script := [.command 0x00000006#32 2#64 0#32 [(1, 0x77#8)]] })).map
      (fun t => (t.status.code, t.wrCnt, t.dsLog.length, Memory.read t.buf 0 3)) =
    some (.ok, 3#4, 1, [0x12#8, 0x77#8, 0x56#8]) := by decide

/-- Rule R265: a WRITE whose range the store leaves alone sends BUF's own bytes (V-W3). -/
theorem test_race_beside_write : (nextOf (step { midWrite .msbFirst 0xA0#8 3#4 with
    script := [.command 0x00000006#32 3#64 0#32 [(3, 0x77#8)]] })).map (fun t => (t.ds, t.wrVal)) =
    some (.rms { content := [0xA2#8, 0x46#8, 0x8A#8], pos := 3 }, 0xC0#8) := by decide

/-- Rules R31, R46: what the host reads after an illegal command (P4 row 1), and that CMD cannot be read. -/
theorem test_readReg : (nextOf (step (State.reset.withFetchWord 32 0x0E))).map
    (fun t => (t.readReg .status, t.readReg .res, t.readReg .cmd)) = some (some 0x14#64, some 0#64, none) := by decide

/-- V-S2: a write past the end pads with 0x00. -/
theorem test_stream_pads : ((Downstream.rms { content := [0xAA#8], pos := 3 }).respond (.write [0x55#8])).map (·.2) =
    some (.rms { content := [0xAA#8, 0x00#8, 0x00#8, 0x55#8], pos := 4 }) := by decide

/-! ### Witnesses: states and operands that meet the hypotheses of each statement together -/

theorem witness_ResetSetsEveryRegister :
    { midByte .lsbFirst 5#4 with fsm := .busy, script := [.reset .msbFirst none] }.script = .reset .msbFirst none :: [] := rfl

theorem witness_StepKeepsInvariant :
    State.Inv { midByte .lsbFirst 5#4 with script := [.command 0x00000002#32 0#64 0#32 []] } ∧
      (nextOf (step { midByte .lsbFirst 5#4 with script := [.command 0x00000002#32 0#64 0#32 []] })).isSome = true := by decide

theorem witness_IllegalWordsComplete :
    decode 0x00000608#32 = .error .badOrigin ∧
      (nextOf (runCommand 0x00000608#32 (overStream .msbFirst []))).map (·.status.code) = some .illegalCommand := by decide

/-- Each cause of rule R104 at a boundary. -/
theorem witness_IllegalWordsComplete_causes :
    (decode 0x00000000#32 = .error .unknownOpcode ∧ decode 0x0000000E#32 = .error .unknownOpcode) ∧
      decode 0x00000800#32 = .error .reservedBits ∧ decode 0x00000103#32 = .error .strayB ∧
      decode 0x00000209#32 = .error .strayOrg ∧ decode 0x00000608#32 = .error .badOrigin := by decide

theorem witness_AssembledLinesAreLegal :
    (2 ^ 32 - 1 < 2 ^ 32 ∧ 2 ^ 64 - 1 < 2 ^ 64) ∧ ((-2 ^ 63 : Int) ≤ -2 ^ 63 ∧ (-2 ^ 63 : Int) < 2 ^ 63) ∧
      (∀ base n, AsmLine.seek (-3) .fromEnd ≠ .read base n ∧ AsmLine.seek (-3) .fromEnd ≠ .write base n) ∧
      AsmLine.rewind ∈ [AsmLine.readbit, .readbyte, .writebit false, .writebit true, .flush, .getpos, .getlen, .getcaps, .rewind] :=
  ⟨by decide, by decide, fun _ _ => ⟨nofun, nofun⟩, by decide⟩

/-- A host port reads alike on two states that differ in the accumulators only (rule R40). -/
theorem witness_PortWordLayout :
    let s := midByte .msbFirst 5#4
    let t := midWrite .msbFirst 0xA0#8 3#4
    let u : State := { s with rdVal := t.rdVal, rdCnt := t.rdCnt, wrVal := t.wrVal, wrCnt := t.wrCnt }
    u = { s with rdVal := u.rdVal, rdCnt := u.rdCnt, wrVal := u.wrVal, wrCnt := u.wrCnt } ∧ u ≠ s := by decide

theorem witness_StepRunsDecodedCommand :
    let s : State := { overStream .msbFirst [] with script := [.command 0x00000104#32 0#64 0#32 []] }
    let u : State := { overStream .msbFirst [] with script := [.writeReg .cmd 0x00000104#64] }
    (s.fsm = .idle ∧ s.script = .command 0x00000104#32 0#64 0#32 [] :: [] ∧ decode 0x00000104#32 = .ok (.writebit true)) ∧
      (u.fsm = .idle ∧ u.script = .writeReg .cmd 0x00000104#64 :: [] ∧
        decode ((0x00000104#64).setWidth 32) = .ok (.writebit true)) := by decide

theorem witness_HostWritesBetweenCommands :
    let s : State := { overStream .msbFirst [] with script := [.storeBuf 15 0x01#8] }
    let u : State := { overStream .msbFirst [] with script := [.storeBuf 16 0x01#8] }
    let r : State := { overStream .msbFirst [] with script := [.writeReg .cfg 1#64] }
    (s.fsm = .idle ∧ s.script = .storeBuf 15 0x01#8 :: [] ∧ Memory.wf s.buf = true ∧ 15 < s.bufSize) ∧
      u.bufSize ≤ 16 ∧ r.script = .writeReg .cfg 1#64 :: [] ∧ HostReg.cfg ∈ [HostReg.res, .status, .ioerr, .cfg, .caps] := by
  decide

theorem witness_HostWritesBetweenCommands_args :
    { overStream .msbFirst [] with script := [.writeReg .arg0 7#64] }.script = .writeReg .arg0 7#64 :: [] ∧
      { overStream .msbFirst [] with script := [.writeReg .arg1 7#64] }.script = .writeReg .arg1 7#64 :: [] := by decide

theorem witness_WaitingCore :
    (State.reset.fsm = .idle ∧ State.reset.script = []) ∧
      { State.reset with fsm := .busy }.fsm = .busy ∧
      ∀ strap bind rest, { State.reset with fsm := .busy }.script ≠ .reset strap bind :: rest :=
  ⟨⟨rfl, rfl⟩, rfl, fun _ _ _ h => nomatch h⟩

theorem witness_WorldChangesDownstreamOnly :
    let r : Rms := { content := [], pos := 0 }
    let r' : Rms := { content := threeBytes, pos := 2 }
    let s : State := { overStream .msbFirst [] with script := [.dsChange (.rms r')] }
    (s.fsm = .idle ∧ s.script = .dsChange (.rms r') :: [] ∧ s.ds = .rms r) ∧
      (∃ x, (failing .msbFirst).ds = .ext x) ∧ (nextOf (step s)).map (·.ds) = some (.rms r') :=
  ⟨by decide, ⟨_, rfl⟩, by decide⟩

theorem witness_NothingChangesTheHostsList :
    (nextOf (exec .getcaps (overStream .msbFirst []))).isSome = true ∧ (nextOf (step State.reset)).isSome = true := by decide

theorem witness_FixedUntilReset :
    (nextOf (step { failing .lsbFirst with script := [.command 0x00000001#32 0#64 0#32 []] })).isSome = true ∧
      ∀ strap bind rest,
        { failing .lsbFirst with script := [.command 0x00000001#32 0#64 0#32 []] }.script ≠ .reset strap bind :: rest :=
  ⟨by decide, fun _ _ _ h => nomatch h⟩

theorem witness_RacingStoresLand :
    let s : State := { overStream .msbFirst threeBytes with script := [.command 0x00000003#32 2#64 0#32 [(5, 0x77#8)]] }
    (s.fsm = .idle ∧ s.script = .command 0x00000003#32 2#64 0#32 [(5, 0x77#8)] :: [] ∧ Memory.wf s.buf = true) ∧
      5 < s.bufSize ∧ (nextOf (step s)).isSome = true ∧ (0#32).toNat + (2#64).toNat ≤ 2 := by decide

/-- A store inside the range of a READ of addresses 4 and 5; address 3 lies below the range, address 6 above it. -/
theorem witness_RacingStoresLand_inside :
    let s : State := { overStream .msbFirst threeBytes with script := [.command 0x00000003#32 2#64 4#32 [(5, 0x77#8)]] }
    (s.fsm = .idle ∧ s.script = .command 0x00000003#32 2#64 4#32 [(5, 0x77#8)] :: [] ∧ Memory.wf s.buf = true) ∧
      5 < s.bufSize ∧ (nextOf (step s)).isSome = true ∧ 3 < (4#32).toNat ∧ (4#32).toNat + (2#64).toNat ≤ 6 := by decide

/-- A store during a command that is no READ: the first disjunct. -/
theorem witness_RacingStoresLand_other :
    let s : State := { overStream .msbFirst threeBytes with script := [.command 0x00000009#32 2#64 0#32 [(0, 0x77#8)]] }
    decode 0x00000009#32 ≠ .ok .read ∧ 0 < s.bufSize ∧
      (nextOf (step s)).map (fun t => Memory.get t.buf 0) = some 0x77#8 := by decide

theorem witness_RacingStoresLand_nowhere :
    let s : State := { overStream .msbFirst threeBytes with
      script := [.command 0x00000003#32 2#64 0#32 [(15, 0x77#8), (16, 0x77#8)]] }
    s.fsm = .idle ∧ s.script = .command 0x00000003#32 2#64 0#32 [(15, 0x77#8), (16, 0x77#8)] :: [] ∧
      Memory.wf s.buf = true ∧ ∃ c ∈ [((15 : Nat), 0x77#8), (16, 0x77#8)], s.bufSize ≤ c.1 := by decide

/-- Stores just below and just above the range of a WRITE, the upper one twice: the WRITE has its own outcome. -/
theorem witness_RacingStoresLand_outcome :
    let stores : List Host.Cell := [(3, 0x66#8), (0, 0x77#8), (3, 0x55#8)]
    let s : State := { midWrite .msbFirst 0xA0#8 3#4 with script := [.command 0x00000006#32 2#64 1#32 stores] }
    (s.fsm = .idle ∧ Memory.wf s.buf = true ∧ decode 0x00000006#32 = .ok .write) ∧
      (∀ c ∈ stores, c.1 < s.bufSize) ∧ (∀ c ∈ stores, c.1 < (1#32).toNat ∨ (1#32).toNat + (2#64).toNat ≤ c.1) ∧
      (nextOf (exec .write { s with script := [], arg0 := 2#64, arg1 := 1#32, cmd := 0x00000006#32, fsm := .busy })).isSome = true ∧
      stores = [(3, 0x66#8), (0, 0x77#8)] ++ (3, 0x55#8) :: [] := by decide

/-- A command that stops, and an illegal word, while a store is made. -/
theorem witness_RacingStoresLand_stops :
    let s : State := { overAnswers .msbFirst [] with script := [.command 0x00000009#32 0#64 0#32 [(1, 0x77#8)]] }
    (Memory.wf s.buf = true ∧ 1 < s.bufSize ∧ decode 0x00000009#32 = .ok .getpos ∧
      exec .getpos { s with script := [], arg0 := 0#64, arg1 := 0#32, cmd := 0x00000009#32, fsm := .busy } =
        .fault .unanswered) ∧ decode 0x0000000E#32 = .error .unknownOpcode :=
  ⟨⟨by decide, by decide, by decide, rfl⟩, by decide⟩

/-- Stores at both ends of the range of an unaligned WRITE, over a stream that answers every request. -/
theorem witness_RacedWriteSendsAnyBytes :
    (∀ x, x ∈ [0, 1] →
      let s : State := { midWrite .msbFirst 0xA0#8 3#4 with script := [.command 0x00000006#32 2#64 0#32 [(x, 0x77#8)]] }
      s.Inv ∧ s.script = .command 0x00000006#32 2#64 0#32 [(x, 0x77#8)] :: [] ∧ (0#32).toNat ≤ x ∧
        x < (0#32).toNat + (2#64).toNat ∧ (0#32).toNat + (2#64).toNat ≤ s.bufSize ∧ (nextOf (step s)).isSome = true) ∧
      ∀ q : Request, ∃ a d, (midWrite .msbFirst 0xA0#8 3#4).ds.respond q = some (a, d) :=
  ⟨by decide, fun _ => ⟨_, _, rfl⟩⟩

/-- The same over a stream that fails the write. -/
theorem witness_RacedWriteSendsAnyBytes_failing :
    let s : State := { failing .msbFirst with script := [.command 0x00000006#32 2#64 0#32 [(1, 0x77#8)]] }
    s.Inv ∧ 1 < (0#32).toNat + (2#64).toNat ∧ (0#32).toNat + (2#64).toNat ≤ s.bufSize ∧
      (nextOf (step s)).map (fun t => (t.status.code, t.ioerr)) = some (.ioError, 0x1234#32) := by decide

theorem witness_PolicyAndMasks : pos .msbFirst 7 = some 0 ∧ pos .lsbFirst 8 = none ∧ 8 ≤ 8 := by decide

theorem witness_FunnelJoinsTwoBytes : (1 ≤ 1 ∧ 1 ≤ 7) ∧ (1 ≤ 7 ∧ 7 ≤ 7) ∧ (7 : Nat) < 8 := by decide

theorem witness_EngineKeepsBitStream :
    splice .msbFirst 7 0x2D#8 [0xDD#8] = some ([0x5B#8], 0xDD#8) ∧ splice .lsbFirst 1 0x2D#8 [] = some ([], 0x2D#8) := by
  decide

theorem witness_CarryFormsAgree : (1 ≤ 3 ∧ 3 ≤ 7) ∧ 0xA0#8 &&& ~~~(fill .msbFirst 3) = 0x00#8 := by decide

theorem witness_InPlaceEngineWalksDown :
    splice .msbFirst 3 0x2D#8 [0xDD#8, 0xB5#8] = some ([0xBB#8, 0xB6#8], 0xB5#8) ∧ 1 < [0xDD#8, 0xB5#8].length := by decide

theorem witness_ReadbitRule_pending : (midByte .msbFirst 7#4).rdCnt ≠ 0#4 ∧ (midByte .msbFirst 7#4).rdCnt.toNat ≤ 7 := by
  decide

theorem witness_ReadbitRule_fetch :
    (overStream .msbFirst [0x2D#8]).rdCnt = 0#4 ∧
      (overStream .msbFirst [0x2D#8]).ds.respond (.read 1) =
        some (.ok [0x2D#8] 0#64, .rms { content := [0x2D#8], pos := 1 }) ∧
      (overStream .msbFirst []).ds.respond (.read 1) = some (.ok [] 0#64, .rms { content := [], pos := 0 }) ∧
      ((failing .msbFirst).ds.respond (.read 1)).map (·.1) = some (.err 0x1234#32) := by decide

theorem witness_ReadbyteRule :
    (midByte .msbFirst 7#4).rdCnt.toNat ≤ 7 ∧ (midByte .msbFirst 7#4).rdCnt ≠ 0#4 ∧
      ((midByte .msbFirst 7#4).ds.respond (.read 1)).map (·.1) = some (.ok [0xDD#8] 0#64) ∧
      (overStream .msbFirst threeBytes).rdCnt = 0#4 ∧
      ((overStream .msbFirst threeBytes).ds.respond (.read 1)).map (·.1) = some (.ok [0x2D#8] 0#64) ∧
      ((overStream .msbFirst []).ds.respond (.read 1)).map (·.1) = some (.ok [] 0#64) ∧
      ((failing .msbFirst).ds.respond (.read 1)).map (·.1) = some (.err 0x1234#32) := by decide

/-- READ at the boundary of BUF: 15 + 2 is out, 16 + 0 and 15 + 1 are in. -/
theorem witness_ReadRule_range :
    let s : State := { midByte .msbFirst 7#4 with arg1 := 15#32, arg0 := 2#64 }
    let u : State := { midByte .msbFirst 7#4 with arg1 := 16#32, arg0 := 0#64 }
    (Memory.wf s.buf = true ∧ s.rdCnt.toNat ≤ 7 ∧ s.bufSize < s.arg1.toNat + s.arg0.toNat) ∧
      (Memory.wf u.buf = true ∧ u.rdCnt.toNat ≤ 7 ∧ u.arg1.toNat + u.arg0.toNat ≤ u.bufSize ∧ u.arg0 = 0#64) := by decide

theorem witness_ReadRule_bytes :
    let s : State := { midByte .msbFirst 7#4 with arg1 := 15#32, arg0 := 1#64 }
    let u : State := { failing .msbFirst with arg1 := 0#32, arg0 := 16#64 }
    (s.arg1.toNat + s.arg0.toNat ≤ s.bufSize ∧ s.arg0 ≠ 0#64 ∧
      (s.ds.respond (.read s.arg0.toNat)).map (·.1) = some (.ok [0xDD#8] 0#64)) ∧
      (u.arg1.toNat + u.arg0.toNat ≤ u.bufSize ∧ u.arg0 ≠ 0#64 ∧ u.rdCnt = 0#4 ∧
        (u.ds.respond (.read u.arg0.toNat)).map (·.1) = some (.err 0x1234#32)) := by decide

theorem witness_ReadbyteIsReadOfOne :
    let s : State := { midByte .msbFirst 7#4 with arg1 := 15#32, arg0 := 1#64 }
    Memory.wf s.buf = true ∧ s.rdCnt.toNat ≤ 7 ∧ s.arg0 = 1#64 ∧ s.arg1.toNat + 1 ≤ s.bufSize ∧
      s.ds.respond (.read 1) = some (.ok [0xDD#8] 0#64, .rms { content := threeBytes, pos := 2 }) := by decide

/-- The other outcomes: end-of-data (READ counts 0) and a failure. -/
theorem witness_ReadbyteIsReadOfOne_none :
    let s : State := { overStream .msbFirst [] with arg0 := 1#64 }
    let u : State := { failing .msbFirst with arg0 := 1#64 }
    (nextOf (exec .read s)).map (fun t => (t.status.code, t.res)) = some (.ok, 0#64) ∧
      s.ds.respond (.read 1) = some (.ok [] 0#64, s.ds) ∧ (u.ds.respond (.read 1)).map (·.1) = some (.err 0x1234#32) ∧
      (nextOf (exec .read u)).map (·.status.code) = some .ioError := by decide

theorem witness_ReadsDeliverTheStream :
    let s : State := { midByte .msbFirst 7#4 with arg0 := 2#64, fsm := .busy }
    isReadCommand .read = true ∧ s.good ∧ (nextOf (exec .read s)).map (·.status.code) = some .ok := by decide

theorem witness_WritebitRule :
    ((midWrite .msbFirst 0xFE#8 7#4).wrCnt.toNat = 7 ∧
      ((midWrite .msbFirst 0xFE#8 7#4).ds.respond (.write [0xFF#8])).map (·.1) = some (.ok [] 0#64)) ∧
      ((failing .msbFirst).ds.respond (.write [0xFF#8])).map (·.1) = some (.err 0x1234#32) ∧
      (0xFF#8 = (if 7#4 = 0#4 then 0x00#8 else 0xFE#8) ||| (if true then 0x01#8 <<< nextFree .msbFirst 7 else 0x00#8)) ∧
      (midWrite .lsbFirst 0x00#8 0#4).wrCnt.toNat < 7 := by decide

theorem witness_WritebitiRule :
    { midWrite .msbFirst 0x80#8 1#4 with arg0 := 0x8000000000000000#64 }.arg0 ≠ 0#64 ∧
      ((midWrite .msbFirst 0x80#8 1#4).arg0 = 0#64 ∧ (midWrite .msbFirst 0x80#8 1#4).wrCnt.toNat < 7) ∧
      ((midWrite .msbFirst 0x80#8 7#4).arg0 = 0#64 ∧ (midWrite .msbFirst 0x80#8 7#4).wrCnt.toNat = 7 ∧
        ((midWrite .msbFirst 0x80#8 7#4).ds.respond (.write [0x80#8])).map (·.1) = some (.ok [] 0#64)) := by decide

/-- WRITE at the boundary of BUF, aligned and with seven bits pending. -/
theorem witness_WriteRule :
    let s : State := { midWrite .msbFirst 0xA0#8 3#4 with arg1 := 14#32, arg0 := 3#64 }
    let u : State := { midWrite .msbFirst 0xA0#8 3#4 with arg1 := 0#32, arg0 := 2#64 }
    (s.wrCnt.toNat ≤ 7 ∧ s.bufSize < s.arg1.toNat + s.arg0.toNat) ∧
      (u.wrCnt.toNat ≤ 7 ∧ u.arg1.toNat + u.arg0.toNat ≤ u.bufSize ∧ [0xA2#8, 0x46#8].length = u.arg0.toNat ∧
        (u.ds.respond (.write [0xA2#8, 0x46#8])).map (·.1) = some (.ok [] 0#64) ∧
        ∀ i, i < u.arg0.toNat → [0xA2#8, 0x46#8].getD i 0x00#8 =
          if u.wrCnt = 0#4 then Memory.get u.buf (u.arg1.toNat + i)
          else funnel u.dir u.wrCnt.toNat
            (if i = 0 then toRaw u.dir u.wrCnt.toNat u.wrVal else Memory.get u.buf (u.arg1.toNat + i - 1))
            (Memory.get u.buf (u.arg1.toNat + i))) ∧
      ((failing .msbFirst).ds.respond (.write [])).map (·.1) = some (.err 0x1234#32) := by decide

theorem witness_WriteCommandKeepsAccount :
    let s : State := { midWrite .lsbFirst 0x05#8 3#4 with arg0 := 3#64 }
    isWriteCommand .write = true ∧ s.good ∧ (nextOf (exec .write s)).map (·.status.code) = some .ok := by decide

/-- A session of one WRITEBIT since reset. -/
theorem witness_WriteSessionAccount :
    WriteSession (State.reset.hardReset .lsbFirst none) ([] ++ appendedBits (.writebit true) (State.reset.hardReset .lsbFirst none))
      { State.reset.hardReset .lsbFirst none with wrVal := 0x01#8, wrCnt := 1#4 } :=
  .append (.writebit true) .start rfl rfl rfl

theorem witness_WrittenBitsReadBack :
    (overStream .msbFirst []).rdCnt = 0#4 ∧ (overStream .msbFirst []).wrCnt = 0#4 ∧ (overStream .msbFirst []).arg0 = 0#64 ∧
      (overStream .msbFirst []).ds = .rms { content := [], pos := 0 } := by decide

theorem witness_FlushRule :
    ((overStream .msbFirst []).wrCnt = 0#4 ∧ ((overStream .msbFirst []).ds.respond .flush).map (·.1) = some (.ok [] 0#64)) ∧
      ((midWrite .msbFirst 0xFE#8 7#4).wrCnt ≠ 0#4 ∧ (midWrite .msbFirst 0xFE#8 7#4).wrCnt.toNat ≤ 7 ∧
        0xFE#8 = 0xFE#8 &&& fill .msbFirst 7 ∧
        ((midWrite .msbFirst 0xFE#8 7#4).ds.respond (.write [0xFE#8])).map (·.1) = some (.ok [] 0#64)) ∧
      ((failing .msbFirst).ds.respond .flush).map (·.1) = some (.err 0x1234#32) := by decide

/-- The commit point: the write answered, the flush failed. -/
theorem witness_FlushRule_commit :
    let s : State := { overAnswers .msbFirst [.ok [] 0#64, .err 0x1234#32] with wrVal := 0x80#8, wrCnt := 1#4 }
    s.ds.respond (.write [0x80#8]) = some (.ok [] 0#64, (overAnswers .msbFirst [.err 0x1234#32]).ds) ∧
      ((overAnswers .msbFirst [.err 0x1234#32]).ds.respond .flush).map (·.1) = some (.err 0x1234#32) := by decide

theorem witness_SeekRule :
    (1#2, Origin.current) ∈ [(0#2, Origin.begin), (1#2, .current), (2#2, .fromEnd)] ∧
      (midByte .msbFirst 7#4).rdCnt ≠ 0#4 ∧ (midWrite .msbFirst 0x80#8 1#4).wrCnt ≠ 0#4 ∧
      ((overStream .msbFirst []).rdCnt = 0#4 ∧ (overStream .msbFirst []).wrCnt = 0#4) ∧
      ((overStream .msbFirst threeBytes).ds.respond (.seek 3 .current)).map (·.1) = some (.ok [] 3#64) ∧
      ((overStream .msbFirst threeBytes).ds.respond (.seek (-1) .begin)).map (·.1) = some (.err 1#32) := by decide

theorem witness_PassThroughRules :
    ((overStream .msbFirst threeBytes).ds.respond .getPos).map (·.1) = some (.ok [] 0#64) ∧
      ((overStream .msbFirst threeBytes).ds.respond (.setPos 5)).map (·.1) = some (.ok [] 0#64) ∧
      ((overStream .msbFirst threeBytes).ds.respond .getLen).map (·.1) = some (.ok [] 3#64) ∧
      ((overStream .msbFirst threeBytes).ds.respond (.setLen (-1))).map (·.1) = some (.err 1#32) ∧
      ((failing .msbFirst).ds.respond .getPos).map (·.1) = some (.err 0x1234#32) := by decide

theorem witness_FailedRequestEndsCommand :
    (failing .msbFirst).good ∧ firstRequest .getlen (failing .msbFirst) = some .getLen ∧
      ((failing .msbFirst).ds.respond .getLen).map (·.1) = some (.err 0x1234#32) := by decide

theorem witness_UnansweredRequestIsStuck :
    ((overAnswers .msbFirst []).good ∧ firstRequest .getlen (overAnswers .msbFirst []) = some .getLen ∧
      (overAnswers .msbFirst []).ds.respond .getLen = none) ∧
      let s : State := { overAnswers .msbFirst [.ok [] 0#64] with wrVal := 0x80#8, wrCnt := 1#4 }
      s.good ∧ s.wrCnt ≠ 0#4 ∧ 0x80#8 = s.wrVal &&& fill s.dir s.wrCnt.toNat ∧
        s.ds.respond (.write [0x80#8]) = some (.ok [] 0#64, (overAnswers .msbFirst []).ds) ∧
        (overAnswers .msbFirst []).ds.respond .flush = none := by decide

theorem witness_CommandsCompleteWhenAnswered :
    (midWrite .lsbFirst 0x05#8 3#4).good ∧ (midWrite .lsbFirst 0x05#8 3#4).ds = .rms { content := [], pos := 0 } := by decide

theorem witness_FailureChangesOnly :
    let s : State := { overAnswers .msbFirst [.ok [] 0#64, .err 0x1234#32] with wrVal := 0x80#8, wrCnt := 1#4 }
    (Memory.wf s.buf = true ∧ (nextOf (exec .flush s)).map (·.status.code) = some .ioError) ∧
      decode 0x0000000E#32 = .error .unknownOpcode ∧
      (nextOf (runCommand 0x0000000E#32 s)).map (·.status.code) = some .illegalCommand := by decide

theorem witness_FailedReadKeepsAccumulator :
    isReadCommand .readbyte = true ∧ (nextOf (exec .readbyte (failing .msbFirst))).map (·.status.code) = some .ioError := by
  decide

theorem witness_FailedWriteKeepsAccumulator :
    (isWriteCommand .write = true ∧ (nextOf (exec .write (failing .msbFirst))).map (·.status.code) = some .ioError) ∧
      let s : State := { failing .msbFirst with wrVal := 0x80#8, wrCnt := 1#4 }
      (nextOf (exec .flush s)).map (·.status.code) = some .ioError ∧ firstRequest .flush s = some (.write [0x80#8]) ∧
        s.ds.respond (.write [0x80#8]) = some (.err 0x1234#32, (overAnswers .msbFirst [.err 0x1234#32]).ds) := by decide

theorem witness_CompletionFlags :
    (nextOf (exec .readbit (overStream .msbFirst []))).map (·.status.eos) = some true ∧
      (nextOf (exec .getpos (failing .msbFirst))).map (·.status.code) = some .ioError := by decide

theorem witness_CodesByCommand :
    (nextOf (exec .write { overStream .msbFirst [] with arg0 := 17#64 })).map (·.status.code) = some .bufferRange ∧
      (nextOf (exec .write { overStream .msbFirst [] with arg0 := 16#64 })).map (·.status.code) = some .ok ∧
      (nextOf (exec .writebiti { overStream .msbFirst [] with arg0 := 1#64 })).map (·.status.code) = some .invalidArgument ∧
      (nextOf (exec (.seek 1#2) (midByte .msbFirst 1#4))).map (·.status.code) = some .notSupported ∧
      (nextOf (exec (.seek 3#2) (overStream .msbFirst []))).map (·.status.code) = some .illegalCommand ∧
      (nextOf (exec .getlen (failing .msbFirst))).map (·.status.code) = some .ioError := by decide

theorem witness_RequestsIssued : (nextOf (exec .flush (midWrite .msbFirst 0xA0#8 3#4))).map (·.dsLog.length) = some 2 := by
  decide

theorem witness_AccumulatorsIndependent :
    Instr.readbyte ∉ [Instr.writebit false, .writebit true, .writebiti, .write, .flush, .seek 1#2] ∧
      Instr.write ∉ [Instr.readbit, .readbyte, .read, .seek 1#2] := by decide

theorem witness_CapabilitiesGateNothing : Instr.readbit ≠ Instr.getcaps := by decide

theorem witness_ReadAnswersAtMostN :
    (overAnswers .msbFirst [.ok threeBytes 0#64]).ds.respond (.read 2) =
      some (.ok [0x2D#8, 0xDD#8] 0#64, (overAnswers .msbFirst []).ds) := by decide

theorem witness_ReadbitReadbyteFrame :
    (nextOf (exec .readbit (midByte .msbFirst 1#4))).isSome = true ∧
      (nextOf (exec .readbyte (overStream .msbFirst threeBytes))).isSome = true := by decide

theorem witness_ReadFrame :
    Memory.wf (midByte .msbFirst 5#4).buf = true ∧
      (nextOf (exec .read { midByte .msbFirst 5#4 with arg0 := 2#64 })).map (·.status.code) = some .ok := by decide

theorem witness_WriteSideFrame :
    (isWriteCommand (.writebit true) = true ∧ (midWrite .msbFirst 0x80#8 1#4).wrCnt.toNat < 7 ∧
      (nextOf (exec (.writebit true) (midWrite .msbFirst 0x80#8 1#4))).isSome = true) ∧
      (nextOf (exec .flush (midWrite .msbFirst 0x80#8 1#4))).isSome = true := by decide

theorem witness_StreamControlFrame :
    isReadCommand (.seek 0#2) = false ∧ isWriteCommand (.seek 0#2) = false ∧ Instr.seek 0#2 ≠ .flush ∧
      (nextOf (exec (.seek 0#2) (midByte .msbFirst 5#4))).isSome = true := by decide

theorem witness_MemoryStreamPositions : (3 : Int) + (-4) < 0 ∧ (0 : Int) ≤ 3 + (-3) ∧ (-3 : Int) < 0 ∧ (0 : Int) ≤ 5 := by
  decide

theorem witness_MemoryStreamLength : (-1 : Int) < 0 ∧ (0 : Int) ≤ 4 ∧ 3 < (4 : Int).toNat := by decide

end Sys2Proof.Tests
end

/-! PROOFS. The four ways a command can complete, said once for all thirteen commands, and what every completion writes. -/

namespace Sys2Proof.Machine

/-! ### The four ways to complete -/

/-- The commands that complete with RES = 0 (rule R45). -/
def zeroResultCommands : List Instr :=
  [.writebit false, .writebit true, .writebiti, .write, .flush, .setpos, .setlen]

/-- Nothing between `s` and `u` has written STATUS or IOERR: what holds of a command until it completes (rules R46, R47). -/
abbrev sameFlags (s u : State) : Prop := u.status = s.status ∧ u.ioerr = s.ioerr

/-- How the command `i`, started in `s`, can complete: each way ends, by `finish` or `raise` of rule R20, a state `u` that
holds the flags of `s`. -/
inductive Completion (i : Instr) (s : State) : State → Prop where
  /-- OK with a result, which is 0 for the commands that deliver none. -/
  | ok {u : State} {r : Word64} (hu : sameFlags s u) (hr : i ∈ zeroResultCommands → r = 0#64) :
      Completion i s (u.finish .ok r false)
  /-- The end of the stream (rule R221), only for READBIT and READBYTE. -/
  | sentinel {u : State} (hu : sameFlags s u) (hi : i = .readbit ∨ i = .readbyte) :
      Completion i s (u.finish .ok Config.eosSentinel true)
  /-- A failure that the core finds itself. -/
  | failed {u : State} {c : Code} (hu : sameFlags s u) (hc : c ≠ .ok ∧ c ≠ .ioError) : Completion i s (u.fail c)
  /-- A failure of the downstream (rule R223). -/
  | failedIo {u : State} (e : Word32) (hu : sameFlags s u) : Completion i s (u.failIo e)

section
variable {i : Instr} {s u t : State}

theorem Completion.of_next_value {r : Word64} (h : (.next (u.finish .ok r false) : Result) = .next t)
    (hu : sameFlags s u) (hi : i ∉ zeroResultCommands) : Completion i s t := by
  cases h
  exact .ok hu fun hmem => absurd hmem hi

theorem Completion.of_next_zero (h : (.next (u.finish .ok 0#64 false) : Result) = .next t) (hu : sameFlags s u) :
    Completion i s t := by
  cases h
  exact .ok hu fun _ => rfl

theorem Completion.of_next_sentinel (h : (.next (u.finish .ok Config.eosSentinel true) : Result) = .next t)
    (hu : sameFlags s u) (hi : i = .readbit ∨ i = .readbyte) : Completion i s t := by
  cases h
  exact .sentinel hu hi

theorem Completion.of_next_failed {c : Code} (h : (.next (u.fail c) : Result) = .next t) (hu : sameFlags s u)
    (hc : c ≠ .ok ∧ c ≠ .ioError) : Completion i s t := by
  cases h
  exact .failed hu hc

/-- A request writes no flag: it fails and completes the command, or the command goes on with the flags it started with. -/
theorem Completion.of_request {q : Request} {k : State → List Byte → Word64 → Result}
    (h : request q u k = .next t) (hu : sameFlags s u)
    (hk : ∀ v bytes w, sameFlags s v → k v bytes w = .next t → Completion i s t) : Completion i s t := by
  rcases request_next h with ⟨e, d, -, rfl⟩ | ⟨bytes, w, d, -, hnext⟩
  · exact .failedIo (u := u.heard q (.err e) d) e hu
  · exact hk (u.heard q (.ok bytes w) d) bytes w hu hnext

/-! ### The operations the commands share -/

theorem deliverBit_completion {v : Byte} {p : Nat} (h : deliverBit v p u = .next t) (hu : sameFlags s u) :
    Completion .readbit s t := by
  unfold deliverBit at h
  split at h
  · cases h
  · exact .of_next_value h hu (by decide)

theorem readUnaligned_completion {bytes : List Byte} (h : readUnaligned bytes u = .next t) (hu : sameFlags s u) :
    Completion .read s t := by
  unfold readUnaligned at h
  split at h
  · exact .of_next_zero h hu
  · split at h
    · cases h
    · exact .of_next_value h hu (by decide)

theorem flushDownstream_completion (h : flushDownstream u = .next t) (hu : sameFlags s u) : Completion .flush s t :=
  .of_request h hu fun _ _ _ hv hnext => .of_next_zero hnext hv

theorem writeBitBody_completion {b : Bool} (h : writeBitBody b s = .next t) : Completion i s t := by
  unfold writeBitBody at h
  split at h
  · cases h
  · dsimp only at h
    split at h
    · exact .of_request h ⟨rfl, rfl⟩ fun _ _ _ hv hnext => .of_next_zero hnext hv
    · exact .of_next_zero h ⟨rfl, rfl⟩

/-! ### The commands -/

theorem execReadbit_completion (h : execReadbit s = .next t) : Completion .readbit s t := by
  unfold execReadbit at h
  split at h
  · refine .of_request h ⟨rfl, rfl⟩ fun v bytes _ hv hnext => ?_
    cases bytes with
    | nil => exact .of_next_sentinel hnext hv (.inl rfl)
    | cons b rest => exact deliverBit_completion hnext hv
  · exact deliverBit_completion h ⟨rfl, rfl⟩

theorem execReadbyte_completion (h : execReadbyte s = .next t) : Completion .readbyte s t := by
  refine .of_request h ⟨rfl, rfl⟩ fun v bytes _ hv hnext => ?_
  cases bytes with
  | nil => exact .of_next_sentinel hnext hv (.inr rfl)
  | cons b rest =>
    dsimp only at hnext
    split at hnext
    · exact .of_next_value hnext hv (by decide)
    · split at hnext
      · cases hnext
      · exact .of_next_value hnext hv (by decide)

theorem execRead_completion (h : execRead s = .next t) : Completion .read s t := by
  unfold execRead at h
  split at h
  · exact .of_next_failed h ⟨rfl, rfl⟩ (by decide)
  · split at h
    · exact .of_next_zero h ⟨rfl, rfl⟩
    · obtain ⟨a, d, -, hnext⟩ := ask_next h
      cases a with
      | err e =>
        cases hnext
        exact .failedIo e ⟨rfl, rfl⟩
      | ok bytes v =>
        dsimp only at hnext
        split at hnext
        · exact .of_next_value hnext ⟨rfl, rfl⟩ (by decide)
        · exact readUnaligned_completion hnext ⟨rfl, rfl⟩

theorem execWritebiti_completion (h : execWritebiti s = .next t) : Completion .writebiti s t := by
  unfold execWritebiti at h
  split at h
  · exact .of_next_failed h ⟨rfl, rfl⟩ (by decide)
  · exact writeBitBody_completion h

theorem execWrite_completion (h : execWrite s = .next t) : Completion .write s t := by
  unfold execWrite at h
  split at h
  · exact .of_next_failed h ⟨rfl, rfl⟩ (by decide)
  · dsimp only at h
    split at h
    · exact .of_request h ⟨rfl, rfl⟩ fun _ _ _ hv hnext => .of_next_zero hnext hv
    · obtain ⟨-, hsend⟩ := writeUnaligned_next h
      exact .of_request hsend ⟨rfl, rfl⟩ fun _ _ _ hv hnext => .of_next_zero hnext hv

theorem execFlush_completion (h : execFlush s = .next t) : Completion .flush s t := by
  unfold execFlush at h
  split at h
  · exact flushDownstream_completion h ⟨rfl, rfl⟩
  · split at h
    · exact .of_request h ⟨rfl, rfl⟩ fun _ _ _ hv hnext => flushDownstream_completion hnext hv
    · cases h

theorem execSeek_completion {org : BitVec 2} (h : execSeek org s = .next t) : Completion (.seek org) s t := by
  unfold execSeek at h
  split at h
  · exact .of_next_failed h ⟨rfl, rfl⟩ (by decide)
  · split at h
    · exact .of_next_failed h ⟨rfl, rfl⟩ (by decide)
    · exact .of_request h ⟨rfl, rfl⟩ fun _ _ _ hv hnext => .of_next_value hnext hv (by simp [zeroResultCommands])

theorem execGetpos_completion (h : execGetpos s = .next t) : Completion .getpos s t :=
  .of_request h ⟨rfl, rfl⟩ fun _ _ _ hv hnext => .of_next_value hnext hv (by decide)

theorem execSetpos_completion (h : execSetpos s = .next t) : Completion .setpos s t :=
  .of_request h ⟨rfl, rfl⟩ fun _ _ _ hv hnext => .of_next_zero hnext hv

theorem execGetlen_completion (h : execGetlen s = .next t) : Completion .getlen s t :=
  .of_request h ⟨rfl, rfl⟩ fun _ _ _ hv hnext => .of_next_value hnext hv (by decide)

theorem execSetlen_completion (h : execSetlen s = .next t) : Completion .setlen s t :=
  .of_request h ⟨rfl, rfl⟩ fun _ _ _ hv hnext => .of_next_zero hnext hv

theorem execGetcaps_completion (h : execGetcaps s = .next t) : Completion .getcaps s t :=
  .of_next_value h ⟨rfl, rfl⟩ (by decide)

/-- A command that comes to a next state completed in one of the four ways (rule R20). -/
theorem exec_completion (h : exec i s = .next t) : Completion i s t := by
  cases i with
  | readbit => exact execReadbit_completion h
  | readbyte => exact execReadbyte_completion h
  | read => exact execRead_completion h
  | writebit b => exact writeBitBody_completion h
  | writebiti => exact execWritebiti_completion h
  | write => exact execWrite_completion h
  | flush => exact execFlush_completion h
  | seek org => exact execSeek_completion h
  | getpos => exact execGetpos_completion h
  | setpos => exact execSetpos_completion h
  | getlen => exact execGetlen_completion h
  | setlen => exact execSetlen_completion h
  | getcaps => exact execGetcaps_completion h

end

/-! ### What every completion writes -/

/-- Settles O43: each of the four ways to complete writes the flags, RES and IOERR as the rules say. -/
theorem completionFlags : Obligations.CompletionFlags := by
  intro i s t h
  cases exec_completion h with
  | ok hu hr => simpa [hu, zeroResultCommands] using hr
  | sentinel hu hi =>
    have hz : i ∉ zeroResultCommands := by rcases hi with rfl | rfl <;> decide
    simpa [hu, hi, Config.eosSentinel, zeroResultCommands] using hz
  | failed hu hc => simp [State.fail_eq_finish, Status.completed, hu, hc]
  | failedIo e hu => simp [State.failIo_eq_finish, Status.completed, hu]

end Sys2Proof.Machine

/-! PROOFS. Bytes bit by bit in logical order, and what the masks, the funnel, the carry forms and the splice do to them. -/

namespace Sys2Proof.Machine

/-! ### A byte by logical index -/

/-- The bit of a byte at logical index `k` in 0..7: `nextFree` is `pos` without its domain (rule R130). -/
def bitAt (dir : Direction) (v : Byte) (k : Nat) : Bool := v.getLsbD (nextFree dir k)

section
variable {dir : Direction} {k : Nat} {v w : Byte}

theorem pos_eq_some_iff {p : Nat} : pos dir k = some p ↔ k < 8 ∧ p = nextFree dir k := by
  by_cases hk : k < 8
  · cases dir <;> simp [pos_of_lt, hk, nextFree, eq_comm]
  · simp [pos_of_ge dir (Nat.not_lt.1 hk), hk]

theorem byteBits_eq_map (dir : Direction) (v : Byte) : byteBits dir v = (List.range 8).map (bitAt dir v) := by
  cases dir <;> rfl

@[simp] theorem byteBits_length (dir : Direction) (v : Byte) : (byteBits dir v).length = 8 := by
  simp [byteBits_eq_map]

@[simp] theorem byteBits_getElem (dir : Direction) (v : Byte) (k : Nat) (hk : k < (byteBits dir v).length) :
    (byteBits dir v)[k] = bitAt dir v k := by
  simp [byteBits_eq_map]

/-- A byte is its eight bits in logical order. -/
theorem eq_of_bitAt_eq (dir : Direction) (h : ∀ k < 8, bitAt dir v k = bitAt dir w k) : v = w := by
  refine BitVec.eq_of_getLsbD_eq fun i hi => ?_
  cases dir with
  | msbFirst => simpa [bitAt, nextFree, show 7 - (7 - i) = i by omega] using h (7 - i) (by omega)
  | lsbFirst => exact h i hi

@[simp] theorem bitAt_zero (dir : Direction) (k : Nat) : bitAt dir 0x00#8 k = false := by simp [bitAt]

theorem bitAt_and : bitAt dir (v &&& w) k = (bitAt dir v k && bitAt dir w k) := by simp [bitAt]

theorem bitAt_or : bitAt dir (v ||| w) k = (bitAt dir v k || bitAt dir w k) := by simp [bitAt]

theorem nextFree_lt (hk : k < 8) : nextFree dir k < 8 := by
  cases dir with
  | msbFirst => exact Nat.lt_of_le_of_lt (Nat.sub_le 7 k) (by decide)
  | lsbFirst => exact hk

theorem bitAt_not (hk : k < 8) : bitAt dir (~~~v) k = !bitAt dir v k := by
  rw [bitAt, bitAt, BitVec.getLsbD_not, decide_eq_true (nextFree_lt hk), Bool.true_and]

/-- On 0..7 different logical indexes have different positions (rule R130). -/
theorem nextFree_inj {j : Nat} (hk : k < 8) (hj : j < 8) : nextFree dir k = nextFree dir j ↔ k = j := by
  cases dir with
  | msbFirst =>
    simp only [nextFree]
    omega
  | lsbFirst => rfl

/-- `SetBit` at the position of logical index `j` sets that bit and no other (rule R133). -/
theorem bitAt_setBit {j : Nat} (hk : k < 8) (hj : j < 8) :
    bitAt dir (setBit v (nextFree dir j)) k = (bitAt dir v k || decide (k = j)) := by
  have hone : (0x01#8 <<< nextFree dir j).getLsbD (nextFree dir k) = decide (k = j) := by
    rw [Bool.eq_iff_iff, decide_eq_true_eq, ← nextFree_inj (dir := dir) hk hj]
    have := nextFree_lt (dir := dir) hk
    simp
    omega
  rw [setBit, bitAt_or, bitAt, bitAt, hone]

/-! ### The masks and the canonical form -/

theorem fill_succ (dir : Direction) (f : Nat) : fill dir (f + 1) = fill dir f ||| logicalBit dir f := by
  simp [fill, List.range_succ]

/-- The bits of `FILL(dir, f)` are those at the logical indexes below `f` (rule R134). -/
theorem bitAt_fill (hk : k < 8) (f : Nat) : bitAt dir (fill dir f) k = decide (k < f) := by
  induction f with
  | zero => simp [fill]
  | succ f ih =>
    have hbit : fill dir (f + 1) = if f < 8 then setBit (fill dir f) (nextFree dir f) else fill dir f := by
      by_cases hf : f < 8
      · simp [fill_succ, logicalBit, pos_eq_some_iff.2 ⟨hf, rfl⟩, hf, setBit]
      · simp [fill_succ, logicalBit, pos_of_ge dir (Nat.not_lt.1 hf), hf]
    rw [hbit]
    split
    · next hf =>
      rw [bitAt_setBit hk hf, ih, Bool.eq_iff_iff]
      simp
      omega
    · rw [ih, decide_eq_decide]
      omega

/-- A byte is canonical for a count exactly when every bit at a logical index at or above the count is 0 (rule R36). -/
theorem canonical_iff {f : Nat} : v &&& ~~~(fill dir f) = 0x00#8 ↔ ∀ k < 8, f ≤ k → bitAt dir v k = false := by
  have hbit : ∀ k < 8, bitAt dir (v &&& ~~~(fill dir f)) k = (bitAt dir v k && decide (f ≤ k)) := fun k hk => by
    rw [bitAt_and, bitAt_not hk, bitAt_fill hk, ← decide_not, decide_eq_decide.2 Nat.not_lt]
  constructor
  · intro h k hk hf
    have hk0 := hbit k hk
    rw [h] at hk0
    simpa [hf] using hk0
  · intro h
    refine eq_of_bitAt_eq dir fun k hk => ?_
    rw [hbit k hk, bitAt_zero]
    by_cases hf : f ≤ k
    · simp [h k hk hf]
    · simp [Nat.not_le.1 hf]

/-! ### The funnel and the two forms of the carry -/

/-- The funnel's byte is the last `s` bits of `prev`, then the first `8 - s` bits of `cur` (rule R139). -/
theorem bitAt_funnel {s : Nat} (hk : k < 8) (hs : s ≤ 8) :
    bitAt dir (funnel dir s v w) k = if k < s then bitAt dir v (8 - s + k) else bitAt dir w (k - s) := by
  cases dir <;> simp only [bitAt, nextFree, funnel, BitVec.getLsbD_setWidth, BitVec.getLsbD_ushiftRight,
    BitVec.getLsbD_append]
  case msbFirst =>
    by_cases hks : k < s
    · rw [if_pos hks, if_neg (by omega), show s + (7 - k) - 8 = 7 - (8 - s + k) by omega]
      simp [show 7 - k < 8 by omega]
    · rw [if_neg hks, if_pos (by omega), show s + (7 - k) = 7 - (k - s) by omega]
      simp [show 7 - k < 8 by omega]
  case lsbFirst =>
    by_cases hks : k < s
    · rw [if_pos hks, if_pos (by omega)]
      simp [hk]
    · rw [if_neg hks, if_neg (by omega), show 8 - s + k - 8 = k - s by omega]
      simp [hk]

/-- `ToRaw` moves the placed bits to the end of the byte (rule R140). -/
theorem bitAt_toRaw {f : Nat} (hk : k < 8) :
    bitAt dir (toRaw dir f v) k = if k < 8 - f then false else bitAt dir v (k - (8 - f)) := by
  cases dir with
  | msbFirst =>
    simp only [bitAt, nextFree, toRaw, BitVec.getLsbD_ushiftRight]
    split
    · exact BitVec.getLsbD_of_ge _ _ (by omega)
    · congr 1
      omega
  | lsbFirst =>
    simp only [bitAt, nextFree, toRaw, BitVec.getLsbD_shiftLeft]
    split <;> simp_all

/-- `FromRaw` moves the last `f` bits to the front and leaves 0 behind them (rule R140). -/
theorem bitAt_fromRaw {f : Nat} (hk : k < 8) (hf : f ≤ 8) :
    bitAt dir (fromRaw dir f v) k = if k < f then bitAt dir v (8 - f + k) else false := by
  cases dir with
  | msbFirst =>
    simp only [bitAt, nextFree, fromRaw, BitVec.getLsbD_shiftLeft]
    split
    · simp [show ¬7 - k < 8 - f by omega, show 7 - k - (8 - f) = 7 - (8 - f + k) by omega]
      omega
    · simp [show 7 - k < 8 - f by omega]
  | lsbFirst =>
    simp only [bitAt, nextFree, fromRaw, BitVec.getLsbD_ushiftRight]
    split
    · rfl
    · exact BitVec.getLsbD_of_ge _ _ (by omega)

/-- `FromRaw` gives a canonical value, whatever the carry byte (rules R36, R140). -/
theorem fromRaw_canonical {f : Nat} (hf : f ≤ 8) (c : Byte) : fromRaw dir f c &&& ~~~(fill dir f) = 0x00#8 :=
  canonical_iff.2 fun k hk hfk => by rw [bitAt_fromRaw hk hf, if_neg (Nat.not_lt.2 hfk)]

/-! ### The logical bit stream through the engine -/

@[simp] theorem streamBits_nil (dir : Direction) : streamBits dir [] = [] := rfl

@[simp] theorem streamBits_cons (dir : Direction) (b : Byte) (rest : List Byte) :
    streamBits dir (b :: rest) = byteBits dir b ++ streamBits dir rest := List.flatMap_cons

@[simp] theorem carryBits_length (dir : Direction) {s : Nat} (hs : s ≤ 8) (v : Byte) : (carryBits dir s v).length = s := by
  simp [carryBits]
  omega

/-- The funnel takes the carried bits first, then as much of the byte as fits (rule R139). -/
theorem byteBits_funnel {s : Nat} (hs : s ≤ 8) :
    byteBits dir (funnel dir s v w) = carryBits dir s v ++ (byteBits dir w).take (8 - s) := by
  refine List.ext_getElem (by simp [hs]) fun k hk _ => ?_
  rw [byteBits_getElem, bitAt_funnel (by simpa using hk) hs, List.getElem_append]
  simp [carryBits, Nat.sub_sub_self hs]

/-- The engine keeps the logical bit stream (rule R143): the carried bits and the input are the output and the new carry. -/
theorem splice_keeps_stream {s : Nat} (hs : s ≤ 8) (c : Byte) (src : List Byte) :
    carryBits dir s c ++ streamBits dir src =
      streamBits dir (spliceOut dir s c src) ++ carryBits dir s (spliceCarry c src) := by
  induction src generalizing c with
  | nil => simp
  | cons b rest ih =>
    have hb : byteBits dir b = (byteBits dir b).take (8 - s) ++ carryBits dir s b := (List.take_append_drop _ _).symm
    calc carryBits dir s c ++ streamBits dir (b :: rest)
        = carryBits dir s c ++ ((byteBits dir b).take (8 - s) ++ carryBits dir s b) ++ streamBits dir rest := by
          rw [← hb, streamBits_cons, List.append_assoc]
      _ = byteBits dir (funnel dir s c b) ++ (carryBits dir s b ++ streamBits dir rest) := by
          simp only [byteBits_funnel hs, List.append_assoc]
      _ = streamBits dir (spliceOut dir s c (b :: rest)) ++ carryBits dir s (spliceCarry c (b :: rest)) := by
          rw [ih b, spliceOut_cons, spliceCarry_cons, streamBits_cons, List.append_assoc]

/-- The raw carry byte of the write side carries the placed bits (rule R140). -/
theorem carryBits_toRaw {f : Nat} (hf : f ≤ 8) (w : Byte) :
    carryBits dir f (toRaw dir f w) = (byteBits dir w).take f := by
  refine List.ext_getElem (by simp [hf]) fun k hk _ => ?_
  have hkf : k < f := by simpa [hf] using hk
  simp [carryBits, bitAt_toRaw (show 8 - f + k < 8 by omega)]

/-- The carry byte brought back to canonical form holds the carried bits as placed bits (rule R140). -/
theorem byteBits_fromRaw_take {f : Nat} (hf : f ≤ 8) (c : Byte) :
    (byteBits dir (fromRaw dir f c)).take f = carryBits dir f c := by
  refine List.ext_getElem (by simp [hf]) fun k hk _ => ?_
  have hkf : k < f ∧ k < 8 := by simpa using hk
  simp [carryBits, bitAt_fromRaw hkf.2 hf, hkf.1]

@[simp] theorem carryBits_zero (dir : Direction) (v : Byte) : carryBits dir 0 v = [] := by
  simp [carryBits]

/-- The first of `p` unread bits is at logical index `8 - p`, and the others follow it (rule R35). -/
theorem carryBits_eq_cons {p : Nat} (hp : 1 ≤ p) (hp8 : p ≤ 8) (v : Byte) :
    carryBits dir p v = bitAt dir v (8 - p) :: carryBits dir (p - 1) v := by
  rw [carryBits, List.drop_eq_getElem_cons (by simp; omega), byteBits_getElem, carryBits,
    show 8 - (p - 1) = 8 - p + 1 by omega]

/-- All eight bits of a byte are its unread bits when none is read yet. -/
theorem carryBits_eight (dir : Direction) (v : Byte) : carryBits dir 8 v = byteBits dir v := by
  simp [carryBits]

/-! ### Placing a bit -/

/-- Placing a bit at logical index `j` changes that bit at most (rule R170). -/
theorem bitAt_placeBit {j : Nat} (hk : k < 8) (hj : j < 8) (b : Bool) :
    bitAt dir (placeBit w (nextFree dir j) b) k = (bitAt dir w k || b && decide (k = j)) := by
  cases b <;> simp [placeBit, bitAt_setBit hk hj]

/-- A bit placed behind the first `f` of a canonical byte leaves it canonical for `f + 1` (rules R36, R170). -/
theorem placeBit_canonical {f : Nat} (hf : f < 8) (hw : w &&& ~~~(fill dir f) = 0x00#8) (b : Bool) :
    placeBit w (nextFree dir f) b &&& ~~~(fill dir (f + 1)) = 0x00#8 :=
  canonical_iff.2 fun k hk hfk => by
    rw [bitAt_placeBit hk hf, canonical_iff.1 hw k hk (by omega)]
    simp [show k ≠ f by omega]

/-- Behind the first `f` bits of a canonical byte the placed bit comes next (rules R38, R170). -/
theorem byteBits_placeBit_take {f : Nat} (hf : f < 8) (hw : w &&& ~~~(fill dir f) = 0x00#8) (b : Bool) :
    (byteBits dir (placeBit w (nextFree dir f) b)).take (f + 1) = (byteBits dir w).take f ++ [b] := by
  refine List.ext_getElem (by simp; omega) fun k hk _ => ?_
  have hkf : k < f + 1 := by simpa [show f + 1 ≤ 8 by omega] using hk
  rw [List.getElem_take, byteBits_getElem, bitAt_placeBit (by omega) hf, List.getElem_append]
  by_cases h : k < f
  · simp [h, show k ≠ f by omega, show k < 8 by omega]
  · obtain rfl : k = f := by omega
    simp [canonical_iff.1 hw k hf le_rfl, show k ≤ 8 by omega]

end

/-- Settles O19: bit by bit, `FromRaw` clears the logical indexes from `f` up and moves the others back where `ToRaw` took
them from. -/
theorem carryFormsAgree : Obligations.CarryFormsAgree := by
  intro dir f w c hf1 hf7
  refine ⟨fromRaw_canonical (by omega) c, fun hw => eq_of_bitAt_eq dir fun k hk => ?_⟩
  rw [bitAt_fromRaw hk (by omega)]
  split
  · rw [bitAt_toRaw (by omega), if_neg (by omega), Nat.add_sub_cancel_left]
  · next hkf => exact (canonical_iff.1 hw k hk (Nat.not_lt.1 hkf)).symm

end Sys2Proof.Machine

/-! PROOFS. How each command can run: for every family of commands one inductive with a constructor per way to complete, the
next state written out, and one theorem that a command with a next state ran in one of these ways. -/

namespace Sys2Proof.Machine

/-! ### What a read is answered -/

/-- A read is never answered with more bytes than it asked for (rule R79). -/
theorem respond_read_length_le {d d' : Downstream} {n : Nat} {bytes : List Byte} {x : Word64}
    (h : d.respond (.read n) = some (.ok bytes x, d')) : bytes.length ≤ n := by
  cases d with
  | rms r =>
    obtain ⟨⟨rfl, -⟩, -⟩ : ((r.content.drop r.pos).take n = bytes ∧ _) ∧ _ := by
      simpa [Rms.respond, Rms.read] using h
    exact List.length_take_le _ _
  | ext y =>
    obtain ⟨c, _ | ⟨a, rest⟩⟩ := y
    · simp at h
    · cases a with
      | err e => simp at h
      | ok all v =>
        obtain ⟨⟨rfl, -⟩, -⟩ : (all.take n = bytes ∧ _) ∧ _ := by simpa [Answer.shapedFor] using h
        exact List.length_take_le _ _

/-- The engine with carry width 0 passes the bytes through (rule R139 at `s = 0`): the aligned case. -/
@[simp] theorem funnel_zero (dir : Direction) (prev cur : Byte) : funnel dir 0 prev cur = cur :=
  eq_of_bitAt_eq dir fun k hk => by rw [bitAt_funnel hk (by omega), if_neg (by omega), Nat.sub_zero]

@[simp] theorem spliceOut_zero (dir : Direction) (c : Byte) (src : List Byte) : spliceOut dir 0 c src = src := by
  induction src generalizing c with
  | nil => rfl
  | cons b rest ih => rw [spliceOut_cons, funnel_zero, ih]

/-! ### The runs of the read commands -/

/-- The state after READBIT has delivered the next of the `p` unread bits of `v` (rule R151). -/
def afterBit (v : Byte) (p : Nat) (s : State) : State :=
  (s.setRd v (BitVec.ofNat 4 (p - 1))).finish .ok ((getBit v (nextFree s.dir (8 - p))).setWidth 64) false

/-- How READBIT can run (rule R151). -/
inductive ReadbitRun (s : State) : State → Prop where
  | pending (h0 : s.rdCnt ≠ 0#4) (h8 : s.rdCnt.toNat ≤ 8) : ReadbitRun s (afterBit s.rdVal s.rdCnt.toNat s)
  | fetched {v : Byte} {x : Word64} {d : Downstream} (h0 : s.rdCnt = 0#4)
      (hr : s.ds.respond (.read 1) = some (.ok [v] x, d)) :
      ReadbitRun s (afterBit v 8 (s.heard (.read 1) (.ok [v] x) d))
  | sentinel {x : Word64} {d : Downstream} (h0 : s.rdCnt = 0#4) (hr : s.ds.respond (.read 1) = some (.ok [] x, d)) :
      ReadbitRun s ((s.heard (.read 1) (.ok [] x) d).finish .ok Config.eosSentinel true)
  | failed {e : Word32} {d : Downstream} (h0 : s.rdCnt = 0#4) (hr : s.ds.respond (.read 1) = some (.err e, d)) :
      ReadbitRun s ((s.heard (.read 1) (.err e) d).failIo e)

/-- How READBYTE can run (rule R152). -/
inductive ReadbyteRun (s : State) : State → Prop where
  | answered {v : Byte} {x : Word64} {d : Downstream} (hr : s.ds.respond (.read 1) = some (.ok [v] x, d)) :
      ReadbyteRun s (((s.heard (.read 1) (.ok [v] x) d).setRd (if s.rdCnt = 0#4 then s.rdVal else v) s.rdCnt).finish .ok
        ((funnel s.dir s.rdCnt.toNat s.rdVal v).setWidth 64) false)
  | sentinel {x : Word64} {d : Downstream} (hr : s.ds.respond (.read 1) = some (.ok [] x, d)) :
      ReadbyteRun s ((s.heard (.read 1) (.ok [] x) d).finish .ok Config.eosSentinel true)
  | failed {e : Word32} {d : Downstream} (hr : s.ds.respond (.read 1) = some (.err e, d)) :
      ReadbyteRun s ((s.heard (.read 1) (.err e) d).failIo e)

/-- How READ can run (rules R154 to R158); the engine passes the bytes through when aligned, and a READ that failed leaves
some bytes `out` in its range. -/
inductive ReadRun (s : State) : State → Prop where
  | outOfRange (ho : s.outOfBuf = true) : ReadRun s (s.fail .bufferRange)
  | nothing (ho : s.outOfBuf = false) (hn : s.count = 0) : ReadRun s (s.finish .ok 0#64 false)
  | answered {bytes : List Byte} {x : Word64} {d : Downstream} (ho : s.outOfBuf = false)
      (hr : s.ds.respond (.read s.count) = some (.ok bytes x, d)) :
      ReadRun s ((((s.heard (.read s.count) (.ok bytes x) d).setBuf
        (Memory.write s.buf s.base (spliceOut s.dir s.rdCnt.toNat s.rdVal bytes))).setRd
        (if s.rdCnt = 0#4 then s.rdVal else spliceCarry s.rdVal bytes) s.rdCnt).finish .ok
        (BitVec.ofNat 64 bytes.length) false)
  | failed {e : Word32} {d : Downstream} {out : List Byte} {k : Nat} (ho : s.outOfBuf = false) (hout : out.length = s.count)
      (hr : s.ds.respond (.read s.count) = some (.err e, d)) :
      ReadRun s ((((s.heard (.read s.count) (.err e) d).setBuf (Memory.write s.buf s.base out)).drew k).failIo e)

section
variable {s t : State}

theorem toNat_pos_of_ne_zero {c : Count} (h : c ≠ 0#4) : 1 ≤ c.toNat := by bv_omega

/-- If a bit is delivered, there was one to deliver. -/
theorem deliverBit_next {v : Byte} {p : Nat} (h : deliverBit v p s = .next t) :
    (1 ≤ p ∧ p ≤ 8) ∧ t = afterBit v p s := by
  unfold deliverBit readIndex at h
  by_cases hp : 1 ≤ p ∧ p ≤ 8
  · rw [if_pos hp, Option.bind_some, pos_eq_some_iff.2 ⟨by omega, rfl⟩] at h
    cases h
    exact ⟨hp, rfl⟩
  · rw [if_neg hp] at h
    cases h

theorem execReadbit_run (h : execReadbit s = .next t) : ReadbitRun s t := by
  unfold execReadbit at h
  split at h
  · next h0 =>
    rcases request_next h with ⟨e, d, hr, rfl⟩ | ⟨bytes, x, d, hr, hk⟩
    · exact .failed h0 hr
    · rcases bytes with _ | ⟨v, rest⟩
      · cases hk
        exact .sentinel h0 hr
      · obtain rfl : rest = [] := by simpa using respond_read_length_le hr
        obtain ⟨-, rfl⟩ := deliverBit_next hk
        exact .fetched h0 hr
  · next h0 =>
    obtain ⟨⟨-, h8⟩, rfl⟩ := deliverBit_next h
    exact .pending h0 h8

theorem execReadbyte_run (h : execReadbyte s = .next t) : ReadbyteRun s t := by
  rcases request_next h with ⟨e, d, hr, rfl⟩ | ⟨bytes, x, d, hr, hk⟩
  · exact .failed hr
  · rcases bytes with _ | ⟨v, rest⟩
    · cases hk
      exact .sentinel hr
    · obtain rfl : rest = [] := by simpa using respond_read_length_le hr
      dsimp only at hk
      split at hk
      · next h0 =>
        have hz : s.rdCnt.toNat = 0 := by simpa using congrArg BitVec.toNat h0
        have hrun := ReadbyteRun.answered hr
        rw [if_pos (by exact h0), hz, funnel_zero] at hrun
        cases hk
        exact hrun
      · next h0 =>
        split at hk
        · cases hk
        · next out c hsplice =>
          obtain ⟨-, rfl, rfl⟩ := splice_eq_some_iff.1 hsplice
          have hrun := ReadbyteRun.answered hr
          rw [if_neg (by exact h0)] at hrun
          cases hk
          exact hrun

/-- The end of READ when it was answered, aligned or not (rules R155, R156). -/
theorem read_answered_run {bytes : List Byte} {x : Word64} {d : Downstream} (ho : s.outOfBuf = false)
    (hr : s.ds.respond (.read s.count) = some (.ok bytes x, d))
    (h : (if s.rdCnt = 0#4 then readAligned bytes (s.heard (.read s.count) (.ok bytes x) d)
      else readUnaligned bytes (s.heard (.read s.count) (.ok bytes x) d)) = .next t) : ReadRun s t := by
  by_cases h0 : s.rdCnt = 0#4
  · have hz : s.rdCnt.toNat = 0 := by simpa using congrArg BitVec.toNat h0
    have hrun := ReadRun.answered ho hr
    rw [if_pos h0, hz, spliceOut_zero] at hrun
    rw [if_pos h0] at h
    cases h
    exact hrun
  · rw [if_neg h0] at h
    have hrun := ReadRun.answered ho hr
    rw [if_neg h0] at hrun
    rcases bytes with _ | ⟨v, rest⟩
    · cases h
      exact hrun
    · unfold readUnaligned at h
      dsimp only at h
      split at h
      · cases h
      · next out c hsplice =>
        obtain ⟨-, rfl, rfl⟩ := splice_eq_some_iff.1 hsplice
        cases h
        exact hrun

theorem execRead_run (h : execRead s = .next t) : ReadRun s t := by
  unfold execRead at h
  split at h
  · next ho =>
    cases h
    exact .outOfRange ho
  · next ho =>
    have ho : s.outOfBuf = false := by simpa using ho
    split at h
    · next hn =>
      cases h
      exact .nothing ho hn
    · obtain ⟨a, d, hr, hk⟩ := ask_next h
      cases a with
      | err e =>
        cases hk
        exact .failed ho (s.freeBytes_length s.count) hr
      | ok bytes x => exact read_answered_run ho hr hk

end

/-! ### The runs of the write commands -/

/-- The byte being assembled with the next bit placed in it (rule R170). -/
def State.withBit (s : State) (b : Bool) : Byte := placeBit s.assembling (nextFree s.dir s.wrCnt.toNat) b

/-- How WRITEBIT `b` can run (rule R170). -/
inductive WritebitRun (b : Bool) (s : State) : State → Prop where
  | placed (h7 : s.wrCnt.toNat < 7) : WritebitRun b s ((s.setWr (s.withBit b) (s.wrCnt + 1#4)).finish .ok 0#64 false)
  | sent {bytes : List Byte} {x : Word64} {d : Downstream} (h7 : s.wrCnt.toNat = 7)
      (hr : s.ds.respond (.write [s.withBit b]) = some (.ok bytes x, d)) :
      WritebitRun b s (((s.heard (.write [s.withBit b]) (.ok bytes x) d).setWr 0x00#8 0#4).finish .ok 0#64 false)
  | failed {e : Word32} {d : Downstream} (h7 : s.wrCnt.toNat = 7)
      (hr : s.ds.respond (.write [s.withBit b]) = some (.err e, d)) :
      WritebitRun b s ((s.heard (.write [s.withBit b]) (.err e) d).failIo e)

/-- How the end of a WRITE of `out` can run, `carry` the raw carry byte behind it (rules R172, R173). -/
inductive SendRun (out : List Byte) (carry : Byte) (s : State) : State → Prop where
  | accepted {bytes : List Byte} {x : Word64} {d : Downstream} (h7 : s.wrCnt.toNat ≤ 7)
      (hr : s.ds.respond (.write out) = some (.ok bytes x, d)) :
      SendRun out carry s (((s.heard (.write out) (.ok bytes x) d).setWr
        (if s.wrCnt = 0#4 then s.wrVal else fromRaw s.dir s.wrCnt.toNat carry) s.wrCnt).finish .ok 0#64 false)
  | failed {e : Word32} {d : Downstream} (hr : s.ds.respond (.write out) = some (.err e, d)) :
      SendRun out carry s ((s.heard (.write out) (.err e) d).failIo e)

/-- The raw carry byte a WRITE starts with (rules R140, R173). -/
def State.rawCarry (s : State) : Byte := toRaw s.dir s.wrCnt.toNat s.wrVal

/-- How WRITE can run (rules R172, R173); the engine passes the bytes of BUF through when aligned. -/
inductive WriteRun (s : State) : State → Prop where
  | outOfRange (ho : s.outOfBuf = true) : WriteRun s (s.fail .bufferRange)
  | sent {t : State} (ho : s.outOfBuf = false)
      (h : SendRun (spliceOut s.dir s.wrCnt.toNat s.rawCarry (Memory.read s.buf s.base s.count))
        (spliceCarry s.rawCarry (Memory.read s.buf s.base s.count)) s t) : WriteRun s t

/-- How a WRITE with a host store in its range can run (rules R97, R265): the bytes and the carry byte are any. -/
inductive RacedWriteRun (s : State) : State → Prop where
  | outOfRange (ho : s.outOfBuf = true) : RacedWriteRun s (s.fail .bufferRange)
  | sent {out : List Byte} {carry : Byte} {k : Nat} {t : State} (ho : s.outOfBuf = false) (hlen : out.length = s.count)
      (h : SendRun out carry (s.drew k) t) : RacedWriteRun s t

section
variable {s t : State}

theorem writeBitBody_run {b : Bool} (h : writeBitBody b s = .next t) : WritebitRun b s t := by
  unfold writeBitBody at h
  split at h
  · cases h
  · next ph hpos =>
    obtain ⟨h8, rfl⟩ := pos_eq_some_iff.1 hpos
    dsimp only at h
    split at h
    · next h7 =>
      rcases request_next h with ⟨e, d, hr, rfl⟩ | ⟨bytes, x, d, hr, hk⟩
      · exact .failed (by omega) hr
      · cases hk
        exact .sent (by omega) hr
    · cases h
      exact .placed (by omega)

/-- WRITEBITI rejects a value, or is WRITEBIT 0 (rule R171). -/
theorem execWritebiti_run (h : execWritebiti s = .next t) : t = s.fail .invalidArgument ∨ WritebitRun false s t := by
  unfold execWritebiti at h
  split at h
  · cases h
    exact .inl rfl
  · exact .inr (writeBitBody_run h)

theorem sendAligned_run {out : List Byte} {carry : Byte} (h0 : s.wrCnt = 0#4) (h : sendAligned out s = .next t) :
    SendRun out carry s t := by
  obtain ⟨a, d, hr, ⟨e, rfl, rfl⟩ | ⟨⟨bytes, x, rfl⟩, rfl⟩⟩ := sendAligned_next h
  · exact .failed hr
  · have hrun := SendRun.accepted (carry := carry) (by simp [h0]) hr
    rw [if_pos h0] at hrun
    exact hrun

theorem sendUnaligned_run {out : List Byte} {carry : Byte} (h0 : s.wrCnt ≠ 0#4) (h7 : s.wrCnt.toNat ≤ 7)
    (h : sendUnaligned out carry s = .next t) : SendRun out carry s t := by
  obtain ⟨a, d, hr, ⟨e, rfl, rfl⟩ | ⟨⟨bytes, x, rfl⟩, rfl⟩⟩ := sendUnaligned_next h
  · exact .failed hr
  · have hrun := SendRun.accepted (carry := carry) h7 hr
    rw [if_neg h0] at hrun
    exact hrun

theorem execWrite_run (h : execWrite s = .next t) : WriteRun s t := by
  unfold execWrite at h
  split at h
  · next ho =>
    cases h
    exact .outOfRange ho
  · next ho =>
    refine .sent (by simpa using ho) ?_
    dsimp only at h
    split at h
    · next h0 =>
      rw [show s.wrCnt.toNat = 0 by simp [h0], spliceOut_zero]
      exact sendAligned_run h0 h
    · next h0 =>
      obtain ⟨⟨-, h7⟩, hsend⟩ := writeUnaligned_next h
      exact sendUnaligned_run h0 h7 hsend

theorem writeRaced_run (h : writeRaced s = .next t) : RacedWriteRun s t := by
  rcases writeRaced_next h with ⟨ho, rfl⟩ | ⟨ho, out, k, hlen, ⟨h0, hsend⟩ | ⟨h0, h7, carry, hsend⟩⟩
  · exact .outOfRange ho
  · exact .sent (carry := 0x00#8) ho hlen (sendAligned_run h0 hsend)
  · exact .sent ho hlen (sendUnaligned_run h0 h7 hsend)

end

/-! ### The runs of stream control -/

/-- How a command can run that ends with one request and keeps all else of the core but RES and STATUS (rules R190 to R197). -/
inductive PassRun (q : Request) (s : State) : State → Prop where
  | answered {bytes : List Byte} {x r : Word64} {d : Downstream} (hr : s.ds.respond q = some (.ok bytes x, d)) :
      PassRun q s ((s.heard q (.ok bytes x) d).finish .ok r false)
  | failed {e : Word32} {d : Downstream} (hr : s.ds.respond q = some (.err e, d)) :
      PassRun q s ((s.heard q (.err e) d).failIo e)

/-- The byte FLUSH sends of a write accumulator that holds bits (rule R190). -/
def State.flushByte (s : State) : Byte := s.wrVal &&& fill s.dir s.wrCnt.toNat

/-- How FLUSH can run (rules R190, R191). -/
inductive FlushRun (s : State) : State → Prop where
  | empty {t : State} (h0 : s.wrCnt = 0#4) (h : PassRun .flush s t) : FlushRun s t
  | sent {bytes : List Byte} {x : Word64} {d : Downstream} {t : State} (h0 : s.wrCnt ≠ 0#4)
      (hr : s.ds.respond (.write [s.flushByte]) = some (.ok bytes x, d))
      (h : PassRun .flush ((s.heard (.write [s.flushByte]) (.ok bytes x) d).setWr 0x00#8 0#4) t) : FlushRun s t
  | failed {e : Word32} {d : Downstream} (h0 : s.wrCnt ≠ 0#4)
      (hr : s.ds.respond (.write [s.flushByte]) = some (.err e, d)) :
      FlushRun s ((s.heard (.write [s.flushByte]) (.err e) d).failIo e)

/-- How SEEK, GETPOS, SETPOS, GETLEN, SETLEN and GETCAPS can run (rules R192 to R198). -/
inductive ControlRun (i : Instr) (s : State) : State → Prop where
  | refused {c : Code} (hi : i ≠ .getcaps) (hc : c ≠ .ok) : ControlRun i s (s.fail c)
  | asked {q : Request} {t : State} (hi : i ≠ .getcaps) (h : PassRun q s t) : ControlRun i s t
  | capabilities {r : Word64} : ControlRun i s (s.finish .ok r false)

section
variable {s t : State}

/-- A request behind which the command only completes. -/
theorem PassRun.of_request {q : Request} {r : Word64 → Word64}
    (h : request q s (fun t _ x => .next (t.finish .ok (r x) false)) = .next t) : PassRun q s t := by
  rcases request_next h with ⟨e, d, hr, rfl⟩ | ⟨bytes, x, d, hr, hk⟩
  · exact .failed hr
  · cases hk
    exact .answered hr

theorem execFlush_run (h : execFlush s = .next t) : FlushRun s t := by
  unfold execFlush at h
  split at h
  · next h0 => exact .empty h0 (.of_request (r := fun _ => 0#64) h)
  · next h0 =>
    split at h
    · rcases request_next h with ⟨e, d, hr, rfl⟩ | ⟨bytes, x, d, hr, hk⟩
      · exact .failed h0 hr
      · exact .sent h0 hr (.of_request (r := fun _ => 0#64) hk)
    · cases h

theorem execSeek_run {org : BitVec 2} (h : execSeek org s = .next t) : ControlRun (.seek org) s t := by
  unfold execSeek at h
  split at h
  · cases h
    exact .refused nofun nofun
  · split at h
    · cases h
      exact .refused nofun nofun
    · exact .asked nofun (.of_request (r := id) h)

/-- A command of stream control other than FLUSH ran in one of the three ways. -/
theorem exec_control_run {i : Instr} (h : exec i s = .next t) (hr : isReadCommand i = false)
    (hw : isWriteCommand i = false) (hf : i ≠ .flush) : ControlRun i s t := by
  cases i with
  | readbit | readbyte | read => cases hr
  | writebit _ | writebiti | write => cases hw
  | flush => exact absurd rfl hf
  | seek org => exact execSeek_run h
  | getpos | getlen => exact .asked nofun (.of_request (r := id) h)
  | setpos | setlen => exact .asked nofun (.of_request (r := fun _ => 0#64) h)
  | getcaps =>
    cases h
    exact .capabilities

end

end Sys2Proof.Machine

/-! PROOFS. What every command keeps, the frames of the commands, and the invariant, all read off the commands' runs. -/

namespace Sys2Proof.Machine

/-! ### What every command keeps -/

/-- The bound stream stays of its kind and the record of requests only grows (rule R261, log entry 13). -/
abbrev recordGrows (s t : State) : Prop := s.dsLog <+: t.dsLog ∧ ((∃ r, s.ds = .rms r) ↔ ∃ r, t.ds = .rms r)

/-- The setting stays, and the record of requests only grows: what every operation of a command keeps. -/
abbrev Evolves (s t : State) : Prop := sameSetting s t ∧ recordGrows s t

section
variable {s t u : State}

theorem Evolves.refl (s : State) : Evolves s s := ⟨⟨rfl, rfl, rfl, rfl, rfl, rfl⟩, List.prefix_rfl, Iff.rfl⟩

theorem Evolves.trans (hst : Evolves s t) (htu : Evolves t u) : Evolves s u := by
  obtain ⟨hset, hlog, hkind⟩ := hst
  obtain ⟨hset', hlog', hkind'⟩ := htu
  exact ⟨by simp [sameSetting, hset, hset'], hlog.trans hlog', hkind.trans hkind'⟩

theorem Evolves.heard {q : Request} {a : Answer} {d : Downstream} (hr : s.ds.respond q = some (a, d)) :
    Evolves s (s.heard q a d) := by
  refine ⟨⟨rfl, rfl, rfl, rfl, rfl, rfl⟩, List.prefix_append _ _, ?_⟩
  rcases State.heard_kind hr with ⟨r, r', h, h'⟩ | ⟨x, x', h, h'⟩ <;> rw [h, h'] <;> simp

theorem Evolves.setBuf (h : Evolves s t) (m : List Host.Cell) : Evolves s (t.setBuf m) := h

theorem Evolves.drew (h : Evolves s t) (n : Nat) : Evolves s (t.drew n) := h

theorem Evolves.failIo (h : Evolves s t) (e : Word32) : Evolves s (t.failIo e) := h

theorem ReadbitRun.evolves (h : ReadbitRun s t) : Evolves s t := by
  cases h with
  | pending => exact .refl s
  | fetched _ hr | sentinel _ hr | failed _ hr => exact .heard hr

theorem ReadbyteRun.evolves (h : ReadbyteRun s t) : Evolves s t := by
  cases h with
  | answered hr | sentinel hr | failed hr => exact .heard hr

theorem ReadRun.evolves (h : ReadRun s t) : Evolves s t := by
  cases h with
  | outOfRange | nothing => exact .refl s
  | answered _ hr => exact .heard hr
  | failed _ _ hr => exact (((Evolves.heard hr).setBuf _).drew _).failIo _

theorem WritebitRun.evolves {b : Bool} (h : WritebitRun b s t) : Evolves s t := by
  cases h with
  | placed => exact .refl s
  | sent _ hr | failed _ hr => exact .heard hr

theorem SendRun.evolves {out : List Byte} {carry : Byte} (h : SendRun out carry s t) : Evolves s t := by
  cases h with
  | accepted _ hr | failed hr => exact .heard hr

theorem WriteRun.evolves (h : WriteRun s t) : Evolves s t := by
  cases h with
  | outOfRange => exact .refl s
  | sent _ h => exact h.evolves

theorem RacedWriteRun.evolves (h : RacedWriteRun s t) : Evolves s t := by
  cases h with
  | outOfRange => exact .refl s
  | sent _ _ h => exact h.evolves

theorem PassRun.evolves {q : Request} (h : PassRun q s t) : Evolves s t := by
  cases h with
  | answered hr | failed hr => exact .heard hr

theorem FlushRun.evolves (h : FlushRun s t) : Evolves s t := by
  cases h with
  | empty _ h => exact h.evolves
  | sent _ hr h => exact (Evolves.heard hr).trans h.evolves
  | failed _ hr => exact .heard hr

theorem ControlRun.evolves {i : Instr} (h : ControlRun i s t) : Evolves s t := by
  cases h with
  | refused | capabilities => exact .refl s
  | asked _ h => exact h.evolves

/-- Every command keeps the setting and only adds to the record of requests. -/
theorem exec_evolves {i : Instr} (h : exec i s = .next t) : Evolves s t := by
  cases i with
  | readbit => exact (execReadbit_run h).evolves
  | readbyte => exact (execReadbyte_run h).evolves
  | read => exact (execRead_run h).evolves
  | writebit b => exact (writeBitBody_run h).evolves
  | writebiti =>
    rcases execWritebiti_run h with rfl | hrun
    · exact .refl s
    · exact hrun.evolves
  | write => exact (execWrite_run h).evolves
  | flush => exact (execFlush_run h).evolves
  | seek _ | getpos | setpos | getlen | setlen | getcaps =>
    exact (exec_control_run h rfl rfl nofun).evolves

/-- A command that completes with OK leaves IOERR and STICKY_ERR (rules R47, R225). -/
theorem exec_ok_keeps_flags {i : Instr} (h : exec i s = .next t) (hok : t.status.code = .ok) :
    t.ioerr = s.ioerr ∧ t.status.stickyErr = s.status.stickyErr := by
  obtain ⟨-, hsticky, -, -, hioerr, -⟩ := completionFlags i s t h
  exact ⟨hioerr (by simp [hok]), by simp [hsticky, hok]⟩

end

/-! ### The frames -/

/-- Settles O49: each way READBIT and READBYTE run writes of the core only the read accumulator, RES, STATUS and, on a
failure, IOERR. -/
theorem readbitReadbyteFrame : Obligations.ReadbitReadbyteFrame := by
  intro i s t hi h
  obtain ⟨hset, -⟩ := exec_evolves h
  have hflags := exec_ok_keeps_flags h
  refine ⟨hset, ?_⟩
  rcases hi with rfl | rfl
  · cases execReadbit_run h <;> simp_all [afterBit, State.failIo_eq_finish]
  · cases execReadbyte_run h <;> simp_all [State.failIo_eq_finish]

/-- Settles O51: each way the write commands and FLUSH run writes of the core only the write accumulator, RES, STATUS and, on
a failure, IOERR. -/
theorem writeSideFrame : Obligations.WriteSideFrame := by
  intro i s t hi h
  obtain ⟨hset, -⟩ := exec_evolves h
  have hflags := exec_ok_keeps_flags h
  refine ⟨hset, ?_⟩
  cases i with
  | writebit b => cases writeBitBody_run h <;> simp_all [State.failIo_eq_finish]
  | writebiti =>
    rcases execWritebiti_run h with rfl | hrun
    · simp_all [State.fail_eq_finish]
    · cases hrun <;> simp_all [State.failIo_eq_finish]
  | write =>
    cases execWrite_run h with
    | outOfRange => simp_all [State.fail_eq_finish]
    | sent _ hsend => cases hsend <;> simp_all [State.failIo_eq_finish]
  | flush =>
    cases execFlush_run h with
    | empty _ hpass => cases hpass <;> simp_all [State.failIo_eq_finish]
    | sent _ _ hpass => cases hpass <;> simp_all [State.failIo_eq_finish]
    | failed => simp_all [State.failIo_eq_finish]
  | readbit | readbyte | read | seek _ | getpos | setpos | getlen | setlen | getcaps =>
    simp [isWriteCommand] at hi

/-- An answered READ got at most its count of bytes, and RES holds their number (rules R79, R154). -/
theorem read_answer_fits {s : State} {bytes : List Byte} {x : Word64} {d : Downstream}
    (hr : s.ds.respond (.read s.count) = some (.ok bytes x, d)) :
    bytes.length ≤ s.count ∧ (BitVec.ofNat 64 bytes.length).toNat = bytes.length := by
  have hlen := respond_read_length_le hr
  have hlt : s.count < 2 ^ 64 := s.arg0.isLt
  exact ⟨hlen, Nat.mod_eq_of_lt (by omega)⟩

/-- `MemWrite` leaves what lies outside its range. -/
theorem Memory.get_write_outside {m : List Host.Cell} (hm : Memory.wf m = true) {a y n : Nat} {bytes : List Byte}
    (hn : bytes.length ≤ n) (hy : y < a ∨ a + n ≤ y) : Memory.get (Memory.write m a bytes) y = Memory.get m y := by
  rw [Memory.get_write hm, if_neg (by omega)]

/-- Settles O50: a READ that was answered writes RES bytes of BUF from base on, one that failed its whole range. -/
theorem readFrame : Obligations.ReadFrame := by
  intro s t hm h
  obtain ⟨hset, -⟩ := exec_evolves h
  have hflags := exec_ok_keeps_flags h
  refine ⟨hset, ?_⟩
  cases execRead_run h with
  | outOfRange => simp [State.fail_eq_finish]
  | nothing => simp_all
  | @answered bytes _ _ ho hr =>
    obtain ⟨hlen, hres⟩ := read_answer_fits hr
    have hn : ∀ n, bytes.length ≤ n → ∀ y, (y < s.base ∨ s.base + n ≤ y) →
        Memory.get (Memory.write s.buf s.base (spliceOut s.dir s.rdCnt.toNat s.rdVal bytes)) y = Memory.get s.buf y :=
      fun n hn y => Memory.get_write_outside hm (by simpa using hn)
    refine ⟨rfl, rfl, rfl, fun h0 => if_pos h0, fun hok => ⟨(hflags hok).1, (hflags hok).2, rfl, ?_⟩, hn _ hlen⟩
    exact hn _ hres.ge
  | failed _ hlen =>
    have hn := fun y => Memory.get_write_outside (a := s.base) (y := y) hm hlen.le
    simpa [State.failIo_eq_finish, State.base, State.count] using hn

/-- Settles O52: each way these commands run writes of the core only RES, STATUS and, on a failure, IOERR. -/
theorem streamControlFrame : Obligations.StreamControlFrame := by
  intro i s t hr hw hf h
  obtain ⟨hset, -⟩ := exec_evolves h
  have hflags := exec_ok_keeps_flags h
  refine ⟨hset, ?_⟩
  cases exec_control_run h hr hw hf with
  | refused hi hc => simp [State.fail_eq_finish, hi, hc]
  | asked hi h => cases h <;> simp_all [State.failIo_eq_finish]
  | capabilities => simp

end Sys2Proof.Machine

/-! PROOFS. How a step can run, and the invariant that every step keeps. -/

namespace Sys2Proof.Machine

/-! ### How a step can run -/

/-- How the command of an accepted word can run (rules R50, R97, R104). -/
inductive CommandRun (s : State) : State → Prop where
  | illegal : CommandRun s (s.fail .illegalCommand)
  | legal {i : Instr} {t : State} (h : exec i s = .next t) : CommandRun s t
  | raced {t : State} (h : RacedWriteRun s t) : CommandRun s t

/-- How a step can run (log entry 9): the core waits, or it takes the next event of the script. A write to a read-only
register sets ARG0 and ARG1 to what they hold, and a write to CMD is a command whose operands stand already. -/
inductive StepRun (s : State) : State → Prop where
  | waits (hs : s.script = []) : StepRun s s
  | reset {strap : Direction} {bind : Option Downstream} {rest : List Event} (hs : s.script = .reset strap bind :: rest) :
      StepRun s ({ s with script := rest }.hardReset strap bind)
  | setArgs {e : Event} {rest : List Event} (a0 : Word64) (a1 : Word32) (hs : s.script = e :: rest) :
      StepRun s ({ s with script := rest }.setArgs a0 a1)
  | stores {e : Event} {rest : List Event} {a : Nat} {v : Byte} (hs : s.script = e :: rest) (ha : a < s.bufSize) :
      StepRun s ({ s with script := rest }.setBuf (Memory.set s.buf a v))
  | dsChanges {e : Event} {rest : List Event} (d : Downstream) (hs : s.script = e :: rest) :
      StepRun s { s with script := rest, ds := s.ds.changeTo d }
  | command {e : Event} {rest : List Event} {w : Word32} {a0 : Word64} {a1 : Word32} {stores : List Host.Cell} {u : State}
      (hs : s.script = e :: rest) (hstores : s.bufHolds stores = true)
      (h : CommandRun (({ s with script := rest }.setArgs a0 a1).accept w) u) : StepRun s (raceAfter w stores u)

section
variable {s t : State}

theorem runCommand_run {w : Word32} (h : runCommand w s = .next t) : CommandRun (s.accept w) t := by
  unfold runCommand at h
  split at h
  · cases h
    exact .illegal
  · exact .legal h

theorem runRaced_run {w : Word32} {stores : List Host.Cell} (h : runRaced w stores s = .next t) :
    CommandRun (s.accept w) t := by
  unfold runRaced at h
  split at h
  · exact .raced (writeRaced_run h)
  · exact runCommand_run h

/-- A command during which the host stores to BUF runs, and then the stores land. -/
theorem runRacing_next {w : Word32} {stores : List Host.Cell} (h : runRacing w stores s = .next t) :
    s.bufHolds stores = true ∧ ∃ u, runRaced w stores s = .next u ∧ t = raceAfter w stores u := by
  unfold runRacing at h
  split at h
  · next hstores =>
    split at h
    · next u hu =>
      cases h
      exact ⟨hstores, u, hu, rfl⟩
    · cases h
    · cases h
  · cases h

/-- An event of an IDLE core. -/
theorem perform_run {e : Event} {rest : List Event} (hs : s.script = e :: rest)
    (h : perform e { s with script := rest } = .next t) : StepRun s t := by
  cases e with
  | writeReg r v =>
    cases r with
    | cmd => exact .command (a0 := s.arg0) (a1 := s.arg1) (stores := []) hs rfl (runCommand_run h)
    | arg0 | arg1 =>
      cases h
      exact .setArgs _ _ hs
    | res | status | ioerr | cfg | caps =>
      cases h
      exact .setArgs s.arg0 s.arg1 hs
  | command w a0 a1 stores =>
    obtain ⟨hstores, u, hu, rfl⟩ := runRacing_next h
    exact .command hs hstores (runRaced_run hu)
  | storeBuf a v =>
    unfold perform at h
    dsimp only at h
    split at h
    · next ha =>
      cases h
      exact .stores hs ha
    · cases h
  | dsChange d =>
    cases h
    exact .dsChanges d hs
  | reset strap bind =>
    cases h
    exact .reset hs

/-- A step with a next state ran in one of these ways. -/
theorem step_run (h : step s = .next t) : StepRun s t := by
  unfold step at h
  split at h
  · unfold stepIdle at h
    split at h
    · next hs =>
      cases h
      exact .waits hs
    · next hs => exact perform_run hs h
  · unfold stepBusy at h
    split at h
    · next hs =>
      cases h
      exact .reset hs
    · cases h

theorem CommandRun.evolves (h : CommandRun s t) : Evolves s t := by
  cases h with
  | illegal => exact .refl s
  | legal h => exact exec_evolves h
  | raced h => exact h.evolves

/-- No command clears STICKY_ERR (rule R225). -/
theorem CommandRun.sticky (h : CommandRun s t) (hs : s.status.stickyErr = true) : t.status.stickyErr = true := by
  cases h with
  | illegal => simp [State.fail_eq_finish, Status.completed]
  | legal h =>
    obtain ⟨-, hsticky, -⟩ := completionFlags _ s t h
    simp [hsticky, hs]
  | raced h =>
    cases h with
    | outOfRange => simp [State.fail_eq_finish, Status.completed]
    | sent _ _ h => cases h <;> simp [State.failIo_eq_finish, Status.completed, hs]

/-- The world changes the bound stream to one of its own kind (log entry 17). -/
theorem Downstream.changeTo_isRms (d d' : Downstream) : (∃ r, d = .rms r) ↔ ∃ r, d.changeTo d' = .rms r := by
  cases d <;> cases d' <;> simp [Downstream.changeTo]

end

/-! ### What every step keeps -/

/-- Settles O12: no run of a command writes the script, and each way to step takes its first event. -/
theorem nothingChangesTheHostsList : Obligations.NothingChangesTheHostsList := by
  refine ⟨fun i s t h => ?_, fun s t h => ?_⟩
  · obtain ⟨⟨-, -, -, -, -, hscript⟩, -⟩ := exec_evolves h
    exact hscript
  · cases step_run h with
    | waits hs => simp [hs]
    | reset hs | setArgs _ _ hs | stores hs _ | dsChanges _ hs => simp [hs]
    | command hs _ hrun =>
      obtain ⟨⟨-, -, -, -, -, hscript⟩, -⟩ := hrun.evolves
      obtain ⟨m, k, hrace⟩ := raceAfter_changes _ _ _
      rw [hrace]
      simpa [hs] using hscript

/-- Settles O13: a command keeps all of it, racing stores change BUF only, and the other events but reset none of it. -/
theorem fixedUntilReset : Obligations.FixedUntilReset := by
  intro s t h hnoreset
  cases step_run h with
  | waits | setArgs | stores => exact ⟨rfl, rfl, id, List.prefix_rfl, Iff.rfl⟩
  | reset hs => exact absurd hs (hnoreset _ _ _)
  | dsChanges d => exact ⟨rfl, rfl, id, List.prefix_rfl, Downstream.changeTo_isRms s.ds d⟩
  | command _ _ hrun =>
    obtain ⟨⟨hdir, -, -, -, hsize, -⟩, hlog, hkind⟩ := hrun.evolves
    obtain ⟨m, k, hrace⟩ := raceAfter_changes _ _ _
    rw [hrace]
    exact ⟨hdir, hsize, hrun.sticky, hlog, hkind⟩

/-! ### The invariant -/

section
variable {s t : State}

theorem le_bufSize_of_outOfBuf (ho : s.outOfBuf = false) : s.base + s.count ≤ s.bufSize := by
  simpa [State.outOfBuf] using ho

/-- `MemWrite` inside BUF keeps BUF good (rule R71). -/
theorem State.bufGood_write {a : Nat} {bytes : List Byte} (hs : s.bufGood) (hn : a + bytes.length ≤ s.bufSize) :
    (s.setBuf (Memory.write s.buf a bytes)).bufGood := by
  obtain ⟨hwf, hlisted, hsize⟩ := hs
  refine ⟨Memory.write_wf _ _ _ hwf, fun c hc => ?_, hsize⟩
  rcases Memory.mem_write hc with hrange | hold
  · exact lt_of_lt_of_le hrange.2 hn
  · exact hlisted c hold

theorem State.good.heard {q : Request} {a : Answer} {d : Downstream} (hs : s.good) : (s.heard q a d).good := hs

theorem State.good.drew (hs : s.good) (k : Nat) : (s.drew k).good := hs

theorem State.good.failIo (hs : s.good) (e : Word32) : (s.failIo e).good := hs

theorem ReadbitRun.good (h : ReadbitRun s t) (hs : s.good) : t.good := by
  obtain ⟨⟨hrd, hwr⟩, hcan, hbuf⟩ := hs
  cases h with
  | pending _ h8 =>
    refine ⟨⟨?_, hwr⟩, hcan, hbuf⟩
    simp [afterBit]
    omega
  | fetched _ _ => exact ⟨⟨by simp [afterBit], hwr⟩, hcan, hbuf⟩
  | sentinel _ _ | failed _ _ => exact ⟨⟨hrd, hwr⟩, hcan, hbuf⟩

theorem ReadbyteRun.good (h : ReadbyteRun s t) (hs : s.good) : t.good := by
  obtain ⟨hcnt, hcan, hbuf⟩ := hs
  cases h with
  | answered _ | sentinel _ | failed _ => exact ⟨hcnt, hcan, hbuf⟩

theorem ReadRun.good (h : ReadRun s t) (hs : s.good) : t.good := by
  obtain ⟨hcnt, hcan, hbuf⟩ := hs
  cases h with
  | outOfRange _ | nothing _ _ => exact ⟨hcnt, hcan, hbuf⟩
  | answered ho hr =>
    have hin := le_bufSize_of_outOfBuf ho
    have hlen := respond_read_length_le hr
    exact ⟨hcnt, hcan, State.bufGood_write hbuf (by rw [spliceOut_length]; omega)⟩
  | failed ho hlen _ =>
    have hgood : (s.setBuf (Memory.write s.buf s.base _)).good :=
      ⟨hcnt, hcan, State.bufGood_write hbuf (hlen ▸ le_bufSize_of_outOfBuf ho)⟩
    exact (hgood.heard.drew _).failIo _

/-- The byte being assembled is canonical for the count of bits in it (rules R36, R170). -/
theorem State.assembling_canonical (hs : s.wrCanonical) : s.assembling &&& ~~~(fill s.dir s.wrCnt.toNat) = 0x00#8 := by
  unfold State.assembling
  split
  · simp
  · exact hs

theorem WritebitRun.good {b : Bool} (h : WritebitRun b s t) (hs : s.good) : t.good := by
  obtain ⟨⟨hrd, hwr⟩, hcan, hbuf⟩ := hs
  cases h with
  | placed h7 =>
    have hcnt : (s.wrCnt + 1#4).toNat = s.wrCnt.toNat + 1 := by bv_omega
    refine ⟨⟨hrd, ?_⟩, ?_, hbuf⟩
    · simp [hcnt]
      omega
    · have := placeBit_canonical (by omega) (State.assembling_canonical hcan) b
      simpa [State.wrCanonical, State.withBit, hcnt] using this
  | sent _ _ => exact ⟨⟨hrd, by simp⟩, by simp [State.wrCanonical], hbuf⟩
  | failed _ _ => exact ⟨⟨hrd, hwr⟩, hcan, hbuf⟩

theorem SendRun.good {out : List Byte} {carry : Byte} (h : SendRun out carry s t) (hs : s.good) : t.good := by
  obtain ⟨⟨hrd, hwr⟩, hcan, hbuf⟩ := hs
  cases h with
  | accepted h7 _ =>
    refine ⟨⟨hrd, hwr⟩, ?_, hbuf⟩
    by_cases h0 : s.wrCnt = 0#4
    · simpa [State.wrCanonical, h0] using hcan
    · simpa [State.wrCanonical, h0] using fromRaw_canonical (by omega) carry
  | failed _ => exact ⟨⟨hrd, hwr⟩, hcan, hbuf⟩

theorem PassRun.good {q : Request} (h : PassRun q s t) (hs : s.good) : t.good := by
  cases h with
  | answered _ | failed _ => exact hs

theorem FlushRun.good (h : FlushRun s t) (hs : s.good) : t.good := by
  obtain ⟨⟨hrd, hwr⟩, hcan, hbuf⟩ := hs
  cases h with
  | empty _ h => exact h.good ⟨⟨hrd, hwr⟩, hcan, hbuf⟩
  | sent _ _ h => exact h.good ⟨⟨hrd, by simp⟩, by simp [State.wrCanonical], hbuf⟩
  | failed _ _ => exact ⟨⟨hrd, hwr⟩, hcan, hbuf⟩

theorem ControlRun.good {i : Instr} (h : ControlRun i s t) (hs : s.good) : t.good := by
  cases h with
  | refused _ _ | capabilities => exact hs
  | asked _ h => exact h.good hs

/-- Every command keeps the counts in 0..7, WR_VAL canonical and BUF good. -/
theorem exec_good {i : Instr} (h : exec i s = .next t) (hs : s.good) : t.good := by
  cases i with
  | readbit => exact (execReadbit_run h).good hs
  | readbyte => exact (execReadbyte_run h).good hs
  | read => exact (execRead_run h).good hs
  | writebit b => exact (writeBitBody_run h).good hs
  | writebiti =>
    rcases execWritebiti_run h with rfl | hrun
    · exact hs
    · exact hrun.good hs
  | write =>
    cases execWrite_run h with
    | outOfRange _ => exact hs
    | sent _ hsend => exact hsend.good hs
  | flush => exact (execFlush_run h).good hs
  | seek _ | getpos | setpos | getlen | setlen | getcaps =>
    exact (exec_control_run h rfl rfl nofun).good hs

theorem CommandRun.inv (h : CommandRun s t) (hs : s.good) : t.Inv := by
  suffices h : t.good ∧ t.fsm = .idle from ⟨h.1.1, h.1.2.1, h.1.2.2, h.2⟩
  cases h with
  | illegal => exact ⟨hs, rfl⟩
  | legal h => exact ⟨exec_good h hs, (completionFlags _ s t h).1⟩
  | raced h =>
    cases h with
    | outOfRange _ => exact ⟨hs, rfl⟩
    | sent _ _ h => exact ⟨h.good hs, by cases h <;> rfl⟩

/-- The stores of the host keep the invariant, when they go to addresses of BUF. -/
theorem raceAfter_inv {w : Word32} {stores : List Host.Cell} (hs : s.Inv) (hin : s.bufHolds stores = true) :
    (raceAfter w stores s).Inv := by
  induction stores generalizing s with
  | nil => exact hs
  | cons c rest ih =>
    obtain ⟨a, v⟩ := c
    obtain ⟨hcnt, hcan, hbuf, hidle⟩ := hs
    obtain ⟨ha, hrest⟩ : a < s.bufSize ∧ s.bufHolds rest = true := by simpa [State.bufHolds] using hin
    have hone : ∀ b, (s.setBuf (Memory.write s.buf a [b])).bufGood := fun b => State.bufGood_write hbuf ha
    unfold raceAfter
    split
    · exact ih ⟨hcnt, hcan, hone _, hidle⟩ hrest
    · exact ih ⟨hcnt, hcan, hone v, hidle⟩ hrest

end

/-- Settles O3: a command keeps the invariant and leaves the core IDLE, racing stores keep it, and the other events change
nothing it speaks of, or reset it. -/
theorem stepKeepsInvariant : Obligations.StepKeepsInvariant := by
  intro s t hs h
  obtain ⟨hcnt, hcan, hbuf, hidle⟩ := hs
  cases step_run h with
  | waits _ | setArgs _ _ _ | dsChanges _ _ => exact ⟨hcnt, hcan, hbuf, hidle⟩
  | reset _ => exact ⟨⟨by simp, by simp⟩, by simp [State.wrCanonical], hbuf, rfl⟩
  | stores _ ha => exact ⟨hcnt, hcan, State.bufGood_write (bytes := [_]) hbuf ha, hidle⟩
  | command _ hstores hrun =>
    obtain ⟨⟨-, -, -, -, hsize, -⟩, -⟩ := hrun.evolves
    exact raceAfter_inv (hrun.inv ⟨hcnt, hcan, hbuf⟩) (by simpa [State.bufHolds, hsize] using hstores)

/-- Settles O2: the reset state's counts, WR_VAL and BUF are empty, and it is IDLE. -/
theorem resetMeetsInvariant : Obligations.ResetMeetsInvariant :=
  ⟨⟨by decide, by decide⟩, by decide, ⟨rfl, nofun, le_rfl⟩, rfl⟩

end Sys2Proof.Machine

/-! PROOFS. The account of bits: what the read commands deliver and the write commands append, against what the downstream
delivered and accepted (rules R76, R177). -/

namespace Sys2Proof.Machine

section
variable {s t : State}

theorem issuedSince_of_append {l : List (Request × Answer)} (h : t.dsLog = s.dsLog ++ l) : issuedSince s t = l := by
  simp [issuedSince, h]

/-! ### The read commands -/

/-- What `MemWrite` wrote, `MemRead` reads (rule R18). -/
theorem Memory.read_write {m : List Host.Cell} (hm : Memory.wf m = true) (a : Nat) (bytes : List Byte) :
    Memory.read (Memory.write m a bytes) a bytes.length = bytes := by
  refine List.ext_getElem (by simp) fun i hi hi' => ?_
  rw [Memory.read_getElem, Memory.get_write hm, if_pos (by omega), Nat.add_sub_cancel_left, List.getD_eq_getElem _ _ hi']

/-- READBIT delivers the first of `p` unread bits and keeps the others (rules R35, R151). -/
theorem afterBit_delivers {v : Byte} {p : Nat} (hp : 1 ≤ p) (hp8 : p ≤ 8) :
    deliveredBits .readbit (afterBit v p s) ++ pendingRead (afterBit v p s) = carryBits s.dir p v := by
  have hbit : ((getBit v (nextFree s.dir (8 - p))).setWidth 64).getLsbD 0 = bitAt s.dir v (8 - p) := by
    have hlt := nextFree_lt (dir := s.dir) (k := 8 - p) (by omega)
    simp [getBit, bitAt]
    omega
  have hcnt : (BitVec.ofNat 4 (p - 1)).toNat = p - 1 := Nat.mod_eq_of_lt (by omega)
  rw [carryBits_eq_cons hp hp8, ← hbit]
  simp [deliveredBits, pendingRead, afterBit, hcnt]

/-- An empty read accumulator carries no bits, whatever RD_VAL (rule R35). -/
theorem carryBits_ite_zero (dir : Direction) (c : Count) (v w : Byte) :
    carryBits dir c.toNat (if c = 0#4 then v else w) = carryBits dir c.toNat w := by
  split
  · next h => simp [h]
  · rfl

theorem ReadbitRun.delivers (h : ReadbitRun s t) (hok : t.status.code = .ok) :
    deliveredBits .readbit t ++ pendingRead t = pendingRead s ++ streamBits s.dir (receivedBytes (issuedSince s t)) := by
  cases h with
  | pending h0 h8 =>
    rw [afterBit_delivers (toNat_pos_of_ne_zero h0) h8, issuedSince_of_append (l := []) (by simp [afterBit])]
    simp [pendingRead, receivedBytes]
  | fetched h0 hr =>
    rw [afterBit_delivers (by omega) le_rfl, issuedSince_of_append rfl]
    simp [pendingRead, receivedBytes, h0, carryBits_eight]
  | sentinel h0 hr =>
    rw [issuedSince_of_append rfl]
    simp [deliveredBits, pendingRead, receivedBytes]
  | failed h0 hr => simp [State.failIo_eq_finish] at hok

theorem ReadbyteRun.delivers (h : ReadbyteRun s t) (h7 : s.rdCnt.toNat ≤ 7) (hok : t.status.code = .ok) :
    deliveredBits .readbyte t ++ pendingRead t = pendingRead s ++ streamBits s.dir (receivedBytes (issuedSince s t)) := by
  cases h with
  | @answered v _ _ hr =>
    have hstream := splice_keeps_stream (dir := s.dir) (s := s.rdCnt.toNat) (by omega) s.rdVal [v]
    rw [issuedSince_of_append rfl]
    simpa [deliveredBits, pendingRead, receivedBytes, carryBits_ite_zero] using hstream.symm
  | sentinel hr =>
    rw [issuedSince_of_append rfl]
    simp [deliveredBits, pendingRead, receivedBytes]
  | failed hr => simp [State.failIo_eq_finish] at hok

theorem ReadRun.delivers (h : ReadRun s t) (hs : s.good) (hok : t.status.code = .ok) :
    deliveredBits .read t ++ pendingRead t = pendingRead s ++ streamBits s.dir (receivedBytes (issuedSince s t)) := by
  obtain ⟨⟨h7, -⟩, -, hm, -⟩ := hs
  cases h with
  | outOfRange ho => simp [State.fail_eq_finish] at hok
  | nothing ho hn =>
    rw [issuedSince_of_append (l := []) (by simp)]
    simp [deliveredBits, pendingRead, receivedBytes, Memory.read]
  | @answered bytes _ _ ho hr =>
    obtain ⟨-, hres⟩ := read_answer_fits hr
    have hstream := splice_keeps_stream (dir := s.dir) (s := s.rdCnt.toNat) (by omega) s.rdVal bytes
    have hback := Memory.read_write hm s.arg1.toNat (spliceOut s.dir s.rdCnt.toNat s.rdVal bytes)
    rw [spliceOut_length] at hback
    rw [issuedSince_of_append rfl]
    simp only [deliveredBits, State.finish_res, hres]
    simpa [pendingRead, receivedBytes, carryBits_ite_zero, State.base, hback] using hstream.symm
  | failed ho hout hr => simp [State.failIo_eq_finish] at hok

/-! ### The write commands -/

/-- The bits of the byte being assembled are the pending ones (rules R38, R170). -/
theorem assembling_take (s : State) : (byteBits s.dir s.assembling).take s.wrCnt.toNat = pendingWrite s := by
  unfold State.assembling pendingWrite
  split
  · next h0 => simp [h0]
  · rfl

/-- The byte with the next bit placed holds the pending bits and then that one (rules R38, R170). -/
theorem withBit_take (hs : s.wrCanonical) (h7 : s.wrCnt.toNat ≤ 7) (b : Bool) :
    (byteBits s.dir (s.withBit b)).take (s.wrCnt.toNat + 1) = pendingWrite s ++ [b] := by
  rw [← assembling_take]
  exact byteBits_placeBit_take (by omega) (State.assembling_canonical hs) b

/-- An empty write accumulator holds no bits, whatever WR_VAL (rule R38). -/
theorem take_ite_zero (dir : Direction) (c : Count) (v w : Byte) :
    (byteBits dir (if c = 0#4 then v else w)).take c.toNat = (byteBits dir w).take c.toNat := by
  split
  · next h => simp [h]
  · rfl

theorem WritebitRun.accounts {b : Bool} (h : WritebitRun b s t) (hs : s.wrCanonical) (hok : t.status.code = .ok) :
    streamBits s.dir (acceptedBytes (issuedSince s t)) ++ pendingWrite t = pendingWrite s ++ [b] := by
  cases h with
  | placed h7 =>
    have hcnt : (s.wrCnt + 1#4).toNat = s.wrCnt.toNat + 1 := by bv_omega
    rw [← withBit_take hs (by omega), issuedSince_of_append (l := []) (by simp)]
    simp [pendingWrite, acceptedBytes, hcnt]
  | sent h7 hr =>
    rw [← withBit_take hs (by omega), issuedSince_of_append rfl]
    simp [pendingWrite, acceptedBytes, h7]
  | failed h7 hr => simp [State.failIo_eq_finish] at hok

theorem WriteRun.accounts (h : WriteRun s t) (hok : t.status.code = .ok) :
    streamBits s.dir (acceptedBytes (issuedSince s t)) ++ pendingWrite t = pendingWrite s ++ appendedBits .write s := by
  cases h with
  | outOfRange ho => simp [State.fail_eq_finish] at hok
  | sent ho h =>
    cases h with
    | accepted h7 hr =>
      have hstream := splice_keeps_stream (dir := s.dir) (s := s.wrCnt.toNat) (by omega) s.rawCarry
        (Memory.read s.buf s.base s.count)
      rw [State.rawCarry, carryBits_toRaw (by omega), ← byteBits_fromRaw_take (by omega)] at hstream
      rw [issuedSince_of_append rfl]
      simpa [pendingWrite, acceptedBytes, take_ite_zero, appendedBits, State.rawCarry] using hstream.symm
    | failed hr => simp [State.failIo_eq_finish] at hok

end

/-! ### The accounts -/

/-- Settles O25: the engine keeps the bit stream, so each way a read command completes with OK accounts for every bit. -/
theorem readsDeliverTheStream : Obligations.ReadsDeliverTheStream := by
  intro i s t hi hs h hok
  cases i with
  | readbit => exact (execReadbit_run h).delivers hok
  | readbyte => exact (execReadbyte_run h).delivers hs.1.1 hok
  | read => exact (execRead_run h).delivers hs hok
  | writebit _ | writebiti | write | flush | seek _ | getpos | setpos | getlen | setlen | getcaps => cases hi

/-- Settles O29: a placed bit follows the pending ones, and the engine keeps the bit stream of a WRITE. -/
theorem writeCommandKeepsAccount : Obligations.WriteCommandKeepsAccount := by
  intro i s t hi hs h hok
  obtain ⟨-, hcan, -⟩ := hs
  cases i with
  | writebit b => exact (writeBitBody_run h).accounts hcan hok
  | writebiti =>
    rcases execWritebiti_run h with rfl | hrun
    · simp [State.fail_eq_finish] at hok
    · exact hrun.accounts hcan hok
  | write => exact (execWrite_run h).accounts hok
  | readbit | readbyte | read | flush | seek _ | getpos | setpos | getlen | setlen | getcaps => cases hi

end Sys2Proof.Machine

/-! PROOFS. What a command does not see: a change of the state that commutes with what the command does commutes with the
whole command. -/

namespace Sys2Proof.Machine

/-! ### Changes of the state that a command does not see -/

/-- The change `f` of a state, `m` of its downstream, is one that the operations of a command neither see nor undo; `g` is
what is left of it after the command has completed. -/
structure Unseen (f g : State → State) (m : Downstream → Downstream) : Prop where
  dir (s : State) : (f s).dir = s.dir
  arg0 (s : State) : (f s).arg0 = s.arg0
  arg1 (s : State) : (f s).arg1 = s.arg1
  bufSize (s : State) : (f s).bufSize = s.bufSize
  buf (s : State) : (f s).buf = s.buf
  draws (s : State) : (f s).draws = s.draws
  respond (s : State) (q : Request) : (f s).ds.respond q = (s.ds.respond q).map fun p => (p.1, m p.2)
  heard (s : State) (q : Request) (a : Answer) (d : Downstream) : (f s).heard q a (m d) = f (s.heard q a d)
  setBuf (s : State) (b : List Host.Cell) : (f s).setBuf b = f (s.setBuf b)
  drew (s : State) (n : Nat) : (f s).drew n = f (s.drew n)
  setIoerr (s : State) (e : Word32) : (f s).setIoerr e = f (s.setIoerr e)
  finish (s : State) (c : Code) (r : Word64) (eos : Bool) : (f s).finish c r eos = g (s.finish c r eos)

/-- The change `f` leaves the read accumulator to the command. -/
structure LeavesRead (f : State → State) : Prop where
  rdVal (s : State) : (f s).rdVal = s.rdVal
  rdCnt (s : State) : (f s).rdCnt = s.rdCnt
  setRd (s : State) (v : Byte) (c : Count) : (f s).setRd v c = f (s.setRd v c)

/-- The change `f` leaves the write accumulator to the command. -/
structure LeavesWrite (f : State → State) : Prop where
  wrVal (s : State) : (f s).wrVal = s.wrVal
  wrCnt (s : State) : (f s).wrCnt = s.wrCnt
  setWr (s : State) (w : Byte) (c : Count) : (f s).setWr w c = f (s.setWr w c)

@[simp] theorem mapNext_next (f : State → State) (t : State) : mapNext f (.next t) = .next (f t) := rfl

@[simp] theorem mapNext_fault (f : State → State) (e : Fault) : mapNext f (.fault e) = .fault e := rfl

/-- Only ORG = 1 names a seek relative to the current position (table 30-2). -/
theorem originOf_eq_current : ∀ {org : BitVec 2}, originOf org = some .current → org = 1#2 := by decide

section
variable {f g : State → State} {m : Downstream → Downstream} {s : State}

namespace Unseen
variable (hu : Unseen f g m)
include hu

theorem count (s : State) : (f s).count = s.count := by rw [State.count, hu.arg0, State.count]

theorem base (s : State) : (f s).base = s.base := by rw [State.base, hu.arg1, State.base]

theorem signedArg (s : State) : (f s).signedArg = s.signedArg := by rw [State.signedArg, hu.arg0, State.signedArg]

theorem outOfBuf (s : State) : (f s).outOfBuf = s.outOfBuf := by
  rw [State.outOfBuf, hu.base, hu.count, hu.bufSize, State.outOfBuf]

theorem freeBytes (s : State) (n : Nat) : (f s).freeBytes n = s.freeBytes n := by
  rw [State.freeBytes, hu.draws, State.freeBytes]

theorem fail (s : State) (c : Code) : (f s).fail c = g (s.fail c) := hu.finish s c _ _

theorem failIo (s : State) (e : Word32) : (f s).failIo e = g (s.failIo e) := by
  rw [State.failIo, hu.setIoerr, hu.finish, State.failIo]

theorem ask {q : Request} {k : State → Answer → Result} (hk : ∀ t a, k (f t) a = mapNext g (k t a)) :
    ask q (f s) k = mapNext g (ask q s k) := by
  unfold Machine.ask
  rw [hu.respond]
  cases s.ds.respond q with
  | none => rfl
  | some p => simp only [Option.map_some, hu.heard, hk]

theorem request {q : Request} {k : State → List Byte → Word64 → Result}
    (hk : ∀ t bytes x, k (f t) bytes x = mapNext g (k t bytes x)) :
    request q (f s) k = mapNext g (request q s k) :=
  hu.ask fun t a => by
    cases a with
    | err e => simp only [hu.failIo, mapNext_next]
    | ok bytes x => exact hk t bytes x

/-! ### The commands -/

/-- A command that ends with one request and a completion. -/
theorem pass {q : Request} {r : Word64 → Word64} :
    Machine.request q (f s) (fun t _ x => .next (t.finish .ok (r x) false)) =
      mapNext g (Machine.request q s fun t _ x => .next (t.finish .ok (r x) false)) :=
  hu.request fun t _ x => by rw [hu.finish, mapNext_next]

theorem deliverBit (hr : LeavesRead f) (v : Byte) (p : Nat) :
    deliverBit v p (f s) = mapNext g (deliverBit v p s) := by
  unfold Machine.deliverBit
  rw [hu.dir]
  split
  · rfl
  · rw [hr.setRd, hu.finish, mapNext_next]

theorem execReadbit (hr : LeavesRead f) : execReadbit (f s) = mapNext g (execReadbit s) := by
  unfold Machine.execReadbit
  rw [hr.rdCnt, hr.rdVal]
  split
  · refine hu.request fun t bytes _ => ?_
    cases bytes with
    | nil => simp only [hu.finish, mapNext_next]
    | cons v rest => exact hu.deliverBit hr v 8
  · exact hu.deliverBit hr _ _

theorem execReadbyte (hr : LeavesRead f) : execReadbyte (f s) = mapNext g (execReadbyte s) := by
  refine hu.request fun t bytes _ => ?_
  cases bytes with
  | nil => simp only [hu.finish, mapNext_next]
  | cons v rest =>
    simp only [hr.rdCnt, hr.rdVal, hu.dir]
    split
    · rw [hu.finish, mapNext_next]
    · split
      · rfl
      · rw [hr.setRd, hu.finish, mapNext_next]

theorem readAligned (bytes : List Byte) : readAligned bytes (f s) = mapNext g (readAligned bytes s) := by
  rw [Machine.readAligned, hu.buf, hu.base, hu.setBuf, hu.finish, Machine.readAligned, mapNext_next]

theorem readUnaligned (hr : LeavesRead f) (bytes : List Byte) :
    readUnaligned bytes (f s) = mapNext g (readUnaligned bytes s) := by
  cases bytes with
  | nil => simp only [Machine.readUnaligned, hu.finish, mapNext_next]
  | cons v rest =>
    simp only [Machine.readUnaligned, hr.rdCnt, hr.rdVal, hu.dir, hu.buf, hu.base]
    split
    · rfl
    · rw [hu.setBuf, hr.setRd, hu.finish, mapNext_next]

theorem execRead (hr : LeavesRead f) : execRead (f s) = mapNext g (execRead s) := by
  unfold Machine.execRead
  rw [hu.outOfBuf, hu.count]
  split
  · rw [hu.fail, mapNext_next]
  · split
    · rw [hu.finish, mapNext_next]
    · refine hu.ask fun t a => ?_
      cases a with
      | err e => simp only [readFailed, hu.count, hu.freeBytes, hu.buf, hu.base, hu.setBuf, hu.drew, hu.failIo, mapNext_next]
      | ok bytes x =>
        simp only [hr.rdCnt]
        split
        · exact hu.readAligned bytes
        · exact hu.readUnaligned hr bytes

theorem writeBitBody (hw : LeavesWrite f) (b : Bool) : writeBitBody b (f s) = mapNext g (writeBitBody b s) := by
  unfold Machine.writeBitBody State.assembling
  simp only [hw.wrCnt, hw.wrVal, hu.dir]
  split
  · rfl
  · split
    · exact hu.request fun t _ _ => by rw [hw.setWr, hu.finish, mapNext_next]
    · rw [hw.setWr, hu.finish, mapNext_next]

theorem execWritebiti (hw : LeavesWrite f) : execWritebiti (f s) = mapNext g (execWritebiti s) := by
  unfold Machine.execWritebiti
  rw [hu.signedArg]
  split
  · rw [hu.fail, mapNext_next]
  · exact hu.writeBitBody hw false

theorem execWrite (hw : LeavesWrite f) : execWrite (f s) = mapNext g (execWrite s) := by
  unfold Machine.execWrite
  simp only [hu.outOfBuf, hw.wrCnt, hu.buf, hu.base, hu.count]
  split
  · rw [hu.fail, mapNext_next]
  · split
    · exact hu.pass (r := fun _ => 0#64)
    · simp only [writeUnaligned, hw.wrCnt, hw.wrVal, hu.dir]
      split
      · rfl
      · exact hu.request fun t _ _ => by rw [hu.dir, hw.wrCnt, hw.setWr, hu.finish, mapNext_next]

theorem execFlush (hw : LeavesWrite f) : execFlush (f s) = mapNext g (execFlush s) := by
  unfold Machine.execFlush
  rw [hw.wrCnt, hw.wrVal, hu.dir]
  split
  · exact hu.pass (r := fun _ => 0#64)
  · split
    · exact hu.request fun t _ _ => by
        rw [hw.setWr]
        exact hu.pass (r := fun _ => 0#64)
    · rfl

theorem execSeek {org : BitVec 2} (hp : org = 1#2 → (f s).bitsPending = s.bitsPending) :
    execSeek org (f s) = mapNext g (execSeek org s) := by
  unfold Machine.execSeek
  cases ho : originOf org with
  | none => simp only [hu.fail, mapNext_next]
  | some o =>
    have hb : (o = .current ∧ (f s).bitsPending = true) ↔ (o = .current ∧ s.bitsPending = true) :=
      and_congr_right fun hcur => by rw [hp (originOf_eq_current (hcur ▸ ho))]
    simp only [hb, hu.signedArg]
    split
    · rw [hu.fail, mapNext_next]
    · exact hu.pass (r := id)

/-- A command that does not depend on what the change touches has the same outcome, with the change in it. -/
theorem exec (i : Instr) (hr : isReadCommand i = true → LeavesRead f)
    (hw : isWriteCommand i = true ∨ i = .flush → LeavesWrite f) (hp : i = .seek 1#2 → (f s).bitsPending = s.bitsPending)
    (hc : i = .getcaps → (f s).ds.caps = s.ds.caps) : exec i (f s) = mapNext g (exec i s) := by
  cases i with
  | readbit => exact hu.execReadbit (hr rfl)
  | readbyte => exact hu.execReadbyte (hr rfl)
  | read => exact hu.execRead (hr rfl)
  | writebit b => exact hu.writeBitBody (hw (.inl rfl)) b
  | writebiti => exact hu.execWritebiti (hw (.inl rfl))
  | write => exact hu.execWrite (hw (.inl rfl))
  | flush => exact hu.execFlush (hw (.inr rfl))
  | seek org => exact hu.execSeek fun horg => hp (by rw [horg])
  | getpos => exact hu.pass (r := id)
  | getlen => exact hu.pass (r := id)
  | setpos =>
    simp only [Machine.exec, execSetpos, hu.signedArg]
    exact hu.pass (r := fun _ => 0#64)
  | setlen =>
    simp only [Machine.exec, execSetlen, hu.signedArg]
    exact hu.pass (r := fun _ => 0#64)
  | getcaps => simp only [Machine.exec, execGetcaps, hc rfl, hu.finish, mapNext_next]

end Unseen

end

/-! ### What the changes of the statements leave to the commands -/

theorem unseen_setWr (w : Byte) (c : Count) : Unseen (·.setWr w c) (·.setWr w c) id := by
  constructor
  case respond => simp
  all_goals intros; rfl

theorem unseen_setRd (v : Byte) (c : Count) : Unseen (·.setRd v c) (·.setRd v c) id := by
  constructor
  case respond => simp
  all_goals intros; rfl

/-- The commands of the statement that can write the write accumulator (rules R170 to R173, R190). -/
theorem mem_of_writes {i : Instr} (h : isWriteCommand i = true ∨ i = .flush) :
    i ∈ [Instr.writebit false, .writebit true, .writebiti, .write, .flush, .seek 1#2] := by
  cases i with
  | writebit b => cases b <;> decide
  | writebiti | write | flush => decide
  | readbit | readbyte | read | seek _ | getpos | setpos | getlen | setlen | getcaps => simp [isWriteCommand] at h

/-- The read commands are those of the statement (rule R150). -/
theorem mem_of_reads {i : Instr} (h : isReadCommand i = true) : i ∈ [Instr.readbit, .readbyte, .read, .seek 1#2] := by
  cases i with
  | readbit | readbyte | read => decide
  | writebit _ | writebiti | write | flush | seek _ | getpos | setpos | getlen | setlen | getcaps => cases h

/-- Settles O46: a change of one accumulator is unseen, and leaves the other accumulator to the command. -/
theorem accumulatorsIndependent : Obligations.AccumulatorsIndependent := by
  refine ⟨fun i s w c hi => ?_, fun i s v c hi => ?_⟩
  · exact (unseen_setWr w c).exec i (fun _ => ⟨fun _ => rfl, fun _ => rfl, fun _ _ _ => rfl⟩)
      (fun hw => absurd (mem_of_writes hw) hi) (fun h => absurd (by simp [h]) hi) fun _ => rfl
  · exact (unseen_setRd v c).exec i (fun hr => absurd (mem_of_reads hr) hi)
      (fun _ => ⟨fun _ => rfl, fun _ => rfl, fun _ _ _ => rfl⟩) (fun h => absurd (by simp [h]) hi) fun _ => rfl

/-- Other capability flags change no answer (rule R84). -/
theorem Downstream.respond_withCaps (d : Downstream) (c : Caps) (q : Request) :
    (d.withCaps c).respond q = (d.respond q).map fun p => (p.1, p.2.withCaps c) := by
  cases d with
  | rms r => rfl
  | ext x => obtain ⟨_, _ | _⟩ := x <;> rfl

/-- Settles O47: a change of the capability flags is unseen, and leaves both accumulators to the command. -/
theorem capabilitiesGateNothing : Obligations.CapabilitiesGateNothing := by
  intro i s c hi
  have hu : Unseen (·.withCaps c) (·.withCaps c) (·.withCaps c) := by
    constructor
    case respond => exact fun s q => s.ds.respond_withCaps c q
    all_goals intros; rfl
  exact hu.exec i (fun _ => ⟨fun _ => rfl, fun _ => rfl, fun _ _ _ => rfl⟩)
    (fun _ => ⟨fun _ => rfl, fun _ => rfl, fun _ _ _ => rfl⟩) (fun _ => rfl) fun h => absurd h hi

/-- Settles O58: a change of CMD and BUSY is unseen until the command completes, and its completion makes the core IDLE. -/
theorem commandsIgnoreCmdAndBusy : Obligations.CommandsIgnoreCmdAndBusy := by
  intro i s w fsm
  have hu : Unseen (fun s => { s with cmd := w, fsm := fsm }) (fun s => { s with cmd := w }) id := by
    constructor
    case respond => simp
    all_goals intros; rfl
  exact hu.exec i (fun _ => ⟨fun _ => rfl, fun _ => rfl, fun _ _ _ => rfl⟩)
    (fun _ => ⟨fun _ => rfl, fun _ => rfl, fun _ _ _ => rfl⟩) (fun _ => rfl) fun _ => rfl

end Sys2Proof.Machine

/-! PROOFS. The host's side: what one event does, what the host reads, and stores that race with a command. -/

namespace Sys2Proof.Machine

/-! ### One step, event by event -/

section
variable {s t : State} {rest : List Event}

theorem step_idle_nil (hi : s.fsm = .idle) (hs : s.script = []) : step s = .next s := by
  simp [step, stepIdle, hi, hs]

theorem step_idle_cons {e : Event} (hi : s.fsm = .idle) (hs : s.script = e :: rest) :
    step s = perform e { s with script := rest } := by
  simp [step, stepIdle, hi, hs]

/-- A BUSY core takes no event but reset (rule R260, log entry 14). -/
theorem step_busy (hb : s.fsm = .busy) (hs : ∀ strap bind rest, s.script ≠ .reset strap bind :: rest) :
    step s = .fault .unanswered := by
  simp only [step, hb, stepBusy]

/-- A reset is taken whatever the core is doing (rule R260). -/
theorem step_reset {strap : Direction} {bind : Option Downstream} (hs : s.script = .reset strap bind :: rest) :
    step s = .next ({ s with script := rest }.hardReset strap bind) := by
  cases hf : s.fsm with
  | idle => exact step_idle_cons hf hs
  | busy => simp [step, stepBusy, hf, hs]

theorem runCommand_legal {w : Word32} {i : Instr} (hw : decode w = .ok i) : runCommand w s = exec i (s.accept w) := by
  simp [runCommand, hw]

theorem runCommand_illegal {w : Word32} {e : Illegal} (hw : decode w = .error e) :
    runCommand w s = .next ((s.accept w).fail .illegalCommand) := by
  simp [runCommand, hw]

/-- `raise` as the statements write it (rule R20). -/
theorem fail_eq_failAfter {c : Code} (hc : c ≠ .ok) : s.fail c = failAfter s c := by
  rw [State.fail, State.finish, Status.completed_failure _ _ _ hc, failAfter]

/-- With every store to an address of BUF, the command runs and the stores land. -/
theorem runRacing_of_holds {w : Word32} {stores : List Host.Cell} (h : s.bufHolds stores = true) :
    runRacing w stores s = mapNext (raceAfter w stores) (runRaced w stores s) := by
  rw [runRacing, if_pos h]
  cases runRaced w stores s <;> rfl

/-- A triple with no racing store is its command. -/
theorem runRacing_nil (w : Word32) (s : State) : runRacing w [] s = runCommand w s := by
  rw [runRacing_of_holds rfl, runRaced_of_no_race (by simp [State.inRangeAny])]
  cases runCommand w s <;> rfl

end

/-- Settles O1: a reset is taken by an IDLE and by a BUSY core, and it writes every register. -/
theorem resetSetsEveryRegister : Obligations.ResetSetsEveryRegister := by
  intro s strap bind rest hs
  refine ⟨_, step_reset hs, rfl, ⟨rfl, rfl⟩, ⟨rfl, rfl⟩, ⟨rfl, rfl, rfl, rfl⟩, ?_, rfl, rfl, rfl, rfl, rfl, rfl⟩
  simp [State.statusWord, Status.cleared, Fsm.busyBit, Code.bits]

/-- Settles O11: with no event an IDLE core stays, and no event but reset moves a BUSY one. -/
theorem waitingCore : Obligations.WaitingCore :=
  ⟨fun _ hi hs => step_idle_nil hi hs, fun _ hb hs => step_busy hb hs⟩

/-- Settles O59: the event changes the stream to one of its own kind, or to itself. -/
theorem worldChangesDownstreamOnly : Obligations.WorldChangesDownstreamOnly := by
  intro s d rest hi hs
  rw [step_idle_cons hi hs]
  refine ⟨fun r r' hr hd => ?_, fun x x' hx hd => ?_, fun r x hkind => ?_⟩
  · simp [perform, hr, hd, Downstream.changeTo]
  · simp [perform, hx, hd, Downstream.changeTo]
  · have hsame : s.ds.changeTo d = s.ds := by
      rcases hkind with ⟨hr, hd⟩ | ⟨hx, hd⟩
      · rw [hr, hd, Downstream.changeTo]
      · rw [hx, hd, Downstream.changeTo]
    simp [perform, hsame]

/-- Settles O10: a register write is the write of its register or nothing, and a store is `BUF[a] <- v` or a fault. -/
theorem hostWritesBetweenCommands : Obligations.HostWritesBetweenCommands := by
  intro s rest hi
  refine ⟨fun v hs => step_idle_cons hi hs, fun v hs => step_idle_cons hi hs, fun r v hs hr => ?_,
    fun a v hs hm => ⟨fun ha => ?_, fun ha => ?_⟩⟩
  · rw [step_idle_cons hi hs]
    cases r with
    | cmd | arg0 | arg1 => simp at hr
    | res | status | ioerr | cfg | caps => rfl
  · refine ⟨_, (step_idle_cons hi hs).trans (if_pos ha), rfl, ?_, fun x hx => ?_⟩
    · exact (Memory.get_set hm a a v).trans (if_pos rfl)
    · exact (Memory.get_set hm a x v).trans (if_neg hx)
  · exact (step_idle_cons hi hs).trans (if_neg (Nat.not_lt.2 ha))

/-- Settles O9: a triple, a write to CMD and `withFetchWord` all come down to `runCommand`. -/
theorem stepRunsDecodedCommand : Obligations.StepRunsDecodedCommand := by
  have hfetch : ∀ (s : State) (w : Word32), step (s.withFetchWord 32 w.toNat) = runCommand w { s with fsm := .idle } := by
    intro s w
    have hw : (BitVec.ofNat 64 (w.toNat % 2 ^ 32)).setWidth 32 = w := by bv_omega
    rw [step_idle_cons (e := commandEvent 32 w.toNat) (rest := s.script) rfl rfl, commandEvent, perform, writeHostReg, hw]
    rfl
  refine ⟨fun s w a0 a1 rest i hi hs hw => ?_, fun s v rest i hi hs hw => ?_, fun s w i hw => ?_, fun s w e hw => ?_⟩
  · rw [step_idle_cons hi hs, perform, runRacing_nil, runCommand_legal hw]
    rfl
  · rw [step_idle_cons hi hs, perform, writeHostReg, runCommand_legal hw]
    rfl
  · rw [hfetch, runCommand_legal hw]
    rfl
  · rw [hfetch, runCommand_illegal hw, fail_eq_failAfter (by decide)]
    rfl

end Sys2Proof.Machine

/-! PROOFS. The words the host reads at its port, bit by bit. -/

namespace Sys2Proof.Machine

/-! ### Words put together from fields -/

/-- A word put together from two fields, as a number. -/
theorem toNat_append_eq_add {n m : Nat} (x : BitVec n) (y : BitVec m) : (x ++ y).toNat = x.toNat * 2 ^ m + y.toNat := by
  rw [BitVec.toNat_append, ← Nat.shiftLeft_add_eq_or_of_lt y.isLt, Nat.shiftLeft_eq]

/-- The bits of CODE are its number of table 60-1 (rule R220). -/
@[simp] theorem Code.bits_toNat (c : Code) : c.bits.toNat = codeNumber c := by cases c <;> rfl

/-- A bit of a word, from the word as a number. -/
theorem getLsbD_eq_of_toNat {n : Nat} {x : BitVec n} {i : Nat} {b : Bool} (h : x.toNat / 2 ^ i % 2 = b.toNat) :
    x.getLsbD i = b := by
  rw [BitVec.getLsbD, Nat.testBit_eq_decide_div_mod_eq, h]
  cases b <;> rfl

theorem Fsm.busyBit_toNat (f : Fsm) : f.busyBit.toNat = (decide (f = .busy)).toNat := by cases f <;> rfl

theorem directionBit_toNat (d : Direction) : (directionBit d).toNat = if d = .lsbFirst then 1 else 0 := by cases d <;> rfl

section
variable (s : State)

/-- STATUS as a number, from its fields (rule R46). -/
theorem statusWord_toNat : s.statusWord.toNat =
    (((decide (s.fsm = .busy)).toNat * 2 + s.status.stickyErr.toNat) * 2 + s.status.eos.toNat) * 8 +
      codeNumber s.status.code := by
  rw [State.statusWord, toNat_append_eq_add, toNat_append_eq_add, toNat_append_eq_add, toNat_append_eq_add,
    Fsm.busyBit_toNat]
  simp

/-- STATUS, field by field (rule R46). -/
theorem statusWord_layout :
    s.statusWord.toNat % 8 = codeNumber s.status.code ∧ s.statusWord.getLsbD 3 = s.status.eos ∧
      s.statusWord.getLsbD 4 = s.status.stickyErr ∧ s.statusWord.getLsbD 5 = decide (s.fsm = .busy) ∧
      s.statusWord.toNat / 64 = 0 := by
  have hnum := statusWord_toNat s
  have hcode : codeNumber s.status.code < 8 := by
    rw [← Code.bits_toNat]
    exact s.status.code.bits.isLt
  have heos := s.status.eos.toNat_le
  have hsticky := s.status.stickyErr.toNat_le
  have hbusy := (decide (s.fsm = .busy)).toNat_le
  exact ⟨by omega, getLsbD_eq_of_toNat (by omega), getLsbD_eq_of_toNat (by omega), getLsbD_eq_of_toNat (by omega), by omega⟩

/-- CFG holds DIR in bit 0 (rule R32). -/
theorem cfgWord_layout : s.cfgWord.toNat = if s.dir = .lsbFirst then 1 else 0 := by
  rw [State.cfgWord, toNat_append_eq_add, directionBit_toNat]
  simp

/-- CAPS, flag by flag (rule R48). -/
theorem capsWord_layout :
    s.capsWord.getLsbD 0 = s.ds.caps.canRead ∧ s.capsWord.getLsbD 1 = s.ds.caps.canWrite ∧
      s.capsWord.getLsbD 2 = s.ds.caps.canSeek ∧ s.capsWord.toNat / 8 = 0 := by
  have hnum : s.capsWord.toNat =
      (s.ds.caps.canSeek.toNat * 2 + s.ds.caps.canWrite.toNat) * 2 + s.ds.caps.canRead.toNat := by
    rw [State.capsWord, toNat_append_eq_add, Caps.bits, toNat_append_eq_add, toNat_append_eq_add]
    simp
  have hread := s.ds.caps.canRead.toNat_le
  have hwrite := s.ds.caps.canWrite.toNat_le
  have hseek := s.ds.caps.canSeek.toNat_le
  exact ⟨getLsbD_eq_of_toNat (by omega), getLsbD_eq_of_toNat (by omega), getLsbD_eq_of_toNat (by omega), by omega⟩

end

/-- Settles O14: each word is put together from its fields, and `readReg` looks at no accumulator. -/
theorem portWordLayout : Obligations.PortWordLayout := by
  intro s
  obtain ⟨hcode, heos, hsticky, hbusy, hhigh⟩ := statusWord_layout s
  refine ⟨⟨hcode, heos, hsticky, hbusy, hhigh, cfgWord_layout s, capsWord_layout s⟩,
    ⟨rfl, fun r w hrw => ?_, fun r hr => ?_⟩, fun t r ht => ?_⟩
  · have hwide : ∀ v : Word32, (v.setWidth 64).toNat = v.toNat := fun v => by bv_omega
    simp only [List.mem_cons, Prod.mk.injEq, List.not_mem_nil, or_false] at hrw
    rcases hrw with ⟨rfl, rfl⟩ | ⟨rfl, rfl⟩ | ⟨rfl, rfl⟩ | ⟨rfl, rfl⟩
    all_goals exact ⟨_, rfl, hwide _⟩
  · cases r with
    | cmd | arg0 | arg1 => rfl
    | res | status | ioerr | cfg | caps => simp at hr
  · rw [ht]
    cases r <;> rfl

end Sys2Proof.Machine

/-! PROOFS. Host stores that race with a command (rules R97, R265). -/

namespace Sys2Proof.Machine

section
variable {s t u : State}

/-! ### What a command leaves in BUF -/

/-- READ writes bytes into its range and nothing else of BUF (rule R154). -/
theorem ReadRun.buf (h : ReadRun s t) : ∃ out, out.length ≤ s.count ∧ t.buf = Memory.write s.buf s.base out := by
  cases h with
  | outOfRange _ | nothing _ _ => exact ⟨[], Nat.zero_le _, rfl⟩
  | answered _ hr => exact ⟨_, (spliceOut_length ..).trans_le (respond_read_length_le hr), rfl⟩
  | failed _ hout _ => exact ⟨_, hout.le, rfl⟩

/-- No command but READ writes BUF (rule R53). -/
theorem exec_buf_eq {i : Instr} (hi : i ≠ .read) (h : exec i s = .next t) : t.buf = s.buf := by
  cases i with
  | read => exact absurd rfl hi
  | readbit => cases execReadbit_run h <;> rfl
  | readbyte => cases execReadbyte_run h <;> rfl
  | writebit b => cases writeBitBody_run h <;> rfl
  | writebiti =>
    rcases execWritebiti_run h with rfl | hrun
    · rfl
    · cases hrun <;> rfl
  | write =>
    cases execWrite_run h with
    | outOfRange _ => rfl
    | sent _ hsend => cases hsend <;> rfl
  | flush =>
    cases execFlush_run h with
    | empty _ hpass | sent _ _ hpass => cases hpass <;> rfl
    | failed _ _ => rfl
  | seek _ | getpos | setpos | getlen | setlen | getcaps =>
    cases exec_control_run h rfl rfl nofun with
    | refused _ _ | capabilities => rfl
    | asked _ hpass => cases hpass <;> rfl

theorem RacedWriteRun.buf (h : RacedWriteRun s t) : t.buf = s.buf := by
  cases h with
  | outOfRange _ => rfl
  | sent _ _ h => cases h <;> rfl

/-- A command keeps BUF canonical. -/
theorem CommandRun.wf (h : CommandRun s t) (hm : Memory.wf s.buf = true) : Memory.wf t.buf = true := by
  cases h with
  | illegal => exact hm
  | raced h => rwa [h.buf]
  | @legal i _ h =>
    by_cases hi : i = .read
    · subst hi
      obtain ⟨out, -, hbuf⟩ := (execRead_run h).buf
      rw [hbuf]
      exact Memory.write_wf _ _ _ hm
    · rwa [exec_buf_eq hi h]

/-- A word's command, raced with or not, leaves BUF as it is, or is a READ and writes bytes into its range. -/
theorem runRaced_buf {w : Word32} {stores : List Host.Cell} (h : runRaced w stores s = .next u) :
    u.buf = s.buf ∨
      decode w = .ok .read ∧ ∃ out, out.length ≤ s.count ∧ u.buf = Memory.write s.buf s.base out := by
  by_cases hrace : decode w = .ok .write ∧ s.inRangeAny stores = true
  · rw [runRaced_of_race hrace.1 hrace.2] at h
    exact .inl (writeRaced_run h).buf
  · rw [runRaced_of_no_race hrace] at h
    cases hw : decode w with
    | error e =>
      rw [runCommand_illegal hw] at h
      cases h
      exact .inl rfl
    | ok i =>
      rw [runCommand_legal hw] at h
      by_cases hi : i = .read
      · subst hi
        exact .inr ⟨rfl, (execRead_run h).buf⟩
      · exact .inl (exec_buf_eq (s := s.accept w) hi h)

/-- Outside the range of a READ, the command itself leaves BUF (rule R265). -/
theorem runRaced_get {w : Word32} {stores : List Host.Cell} {y : Nat} (hm : Memory.wf s.buf = true)
    (h : runRaced w stores s = .next u) (hy : decode w ≠ .ok .read ∨ y < s.base ∨ s.base + s.count ≤ y) :
    Memory.get u.buf y = Memory.get s.buf y := by
  rcases runRaced_buf h with hbuf | ⟨hw, out, hlen, hbuf⟩
  · rw [hbuf]
  · rw [hbuf]
    exact Memory.get_write_outside hm hlen (hy.resolve_left (not_not.2 hw))

/-! ### The command and the stores -/

/-- Racing stores during a command that is no READ change BUF and nothing else. -/
theorem raceAfter_of_not_read {w : Word32} (hw : decode w ≠ .ok .read) (stores : List Host.Cell) (s : State) :
    ∃ m, raceAfter w stores s = s.setBuf m := by
  induction stores generalizing s with
  | nil => exact ⟨s.buf, rfl⟩
  | cons c rest ih =>
    obtain ⟨a, v⟩ := c
    rw [raceAfter, if_neg fun h => hw h.1]
    exact ih (s.setBuf (Memory.set s.buf a v))

/-- Out of range a WRITE fails before it reads BUF, so stores that race with it change nothing of it (rule R229). -/
theorem writeRaced_of_outOfBuf (ho : s.outOfBuf = true) : writeRaced s = execWrite s := by
  rw [writeRaced, execWrite, if_pos ho, if_pos ho]

/-- When no store meets a WRITE in its range, the command runs as without the stores. -/
theorem runRaced_eq_runCommand {w : Word32} {stores : List Host.Cell}
    (h : decode w = .ok .write → s.base + s.count ≤ s.bufSize → ∀ c ∈ stores, c.1 < s.base ∨ s.base + s.count ≤ c.1) :
    runRaced w stores s = runCommand w s := by
  by_cases hrace : decode w = .ok .write ∧ s.inRangeAny stores = true
  · obtain ⟨hw, hr⟩ := hrace
    have ho : (s.accept w).outOfBuf = true := by
      obtain ⟨c, hc, hin⟩ := List.any_eq_true.1 hr
      have hin : s.base ≤ c.1 ∧ c.1 < s.base + s.count := by simpa [State.inRange] using hin
      by_contra hle
      have hout := h hw (le_bufSize_of_outOfBuf (s := s.accept w) (by simpa using hle)) c hc
      omega
    rw [runRaced_of_race hw hr, writeRaced_of_outOfBuf ho, runCommand_legal hw]
    rfl
  · exact runRaced_of_no_race hrace

/-- A byte outside the range of a READ holds the last value stored to it, or what it held (rule R265). -/
theorem runRacing_get {w : Word32} {stores : List Host.Cell} {y : Nat} (hm : Memory.wf s.buf = true)
    (h : runRacing w stores s = .next t) (hy : decode w ≠ .ok .read ∨ y < s.base ∨ s.base + s.count ≤ y) :
    ((∀ c ∈ stores, c.1 ≠ y) → Memory.get t.buf y = Memory.get s.buf y) ∧
      ∀ earlier v later, stores = earlier ++ (y, v) :: later → (∀ c ∈ later, c.1 ≠ y) → Memory.get t.buf y = v := by
  obtain ⟨-, u, hu, rfl⟩ := runRacing_next h
  have hwf := (runRaced_run hu).wf hm
  refine ⟨fun hfree => (raceAfter_get_of_untouched hwf hfree).trans (runRaced_get hm hu hy), ?_⟩
  rintro earlier v later rfl hlater
  obtain ⟨⟨-, -, harg0, harg1, -, -⟩, -⟩ := (runRaced_run hu).evolves
  refine raceAfter_get_stored hwf (fun ⟨hw, hin⟩ => ?_) hlater
  have hrange : s.base ≤ y ∧ y < s.base + s.count := by
    simpa [State.inRange, State.base, State.count, harg0, harg1] using hin
  have hout := hy.resolve_left (not_not.2 hw)
  omega

/-- What follows the command changes BUF and the counter of free values, and no byte but those stored to. -/
theorem raceAfter_outcome (w : Word32) {stores : List Host.Cell} (hm : Memory.wf u.buf = true) :
    raceAfter w stores u = { u with buf := (raceAfter w stores u).buf, draws := (raceAfter w stores u).draws } ∧
      ∀ y, (∀ c ∈ stores, c.1 ≠ y) → Memory.get (raceAfter w stores u).buf y = Memory.get u.buf y := by
  refine ⟨?_, fun y hy => raceAfter_get_of_untouched hm hy⟩
  obtain ⟨m, k, h⟩ := raceAfter_changes w stores u
  rw [h]
  rfl

end

/-- Settles O15: a step is the command and then the stores; the command leaves BUF outside a READ's range, no store meets
what it reads, and the stores leave all but BUF. -/
theorem racingStoresLand : Obligations.RacingStoresLand := by
  intro s w a0 a1 stores rest hi hs hm
  rw [step_idle_cons hi hs, perform]
  refine ⟨fun ⟨c, hc, hbad⟩ => if_neg fun hin => ?_, fun hin => ?_⟩
  · have hlt : c.1 < s.bufSize := of_decide_eq_true (List.all_eq_true.1 hin c hc)
    omega
  have hholds : ({ s with script := rest }.setArgs a0 a1).bufHolds stores = true :=
    List.all_eq_true.2 fun c hc => decide_eq_true (hin c hc)
  refine ⟨fun t ht y hy => runRacing_get (s := { s with script := rest }.setArgs a0 a1) hm ht hy, fun hno => ?_⟩
  rw [runRacing_of_holds hholds, runRaced_eq_runCommand hno]
  refine ⟨fun i hw => ?_, fun e hw => ?_⟩
  · rw [runCommand_legal hw]
    refine ⟨fun u hu => ?_, fun f hf => congrArg (mapNext _) hf⟩
    have hwf : Memory.wf u.buf = true := (CommandRun.legal hu).wf hm
    exact ⟨_, congrArg (mapNext _) hu, raceAfter_outcome w hwf⟩
  · obtain ⟨m, hrace⟩ := raceAfter_of_not_read (w := w) (by simp [hw]) stores
      ((({ s with script := rest }.setArgs a0 a1).accept w).fail .illegalCommand)
    refine ⟨_, congrArg (mapNext _) (runCommand_illegal hw), ?_⟩
    rw [hrace, fail_eq_failAfter (by decide)]
    rfl

/-! ### A WRITE with a store in its range -/

section
variable {s t u : State}

theorem exists_of_mapNext_eq_next {f : State → State} {r : Result} (h : mapNext f r = .next t) :
    ∃ u, r = .next u ∧ t = f u := by
  cases r with
  | next u =>
    cases h
    exact ⟨u, rfl, rfl⟩
  | fault _ | refused _ => cases h

/-- A request completes the command when what follows it does. -/
theorem request_completes {q : Request} {a : Answer} {d : Downstream} {k : State → List Byte → Word64 → Result}
    (hr : s.ds.respond q = some (a, d)) (hk : ∀ t bytes x, ∃ u, k t bytes x = .next u) : ∃ u, request q s k = .next u := by
  cases a with
  | err e => exact ⟨_, request_failed k hr⟩
  | ok bytes x => exact (hk _ bytes x).imp fun u hu => (request_answered k hr).trans hu

/-- A raced WRITE completes whatever bytes it sends, when the downstream answers. -/
theorem writeRaced_completes (h7 : s.wrCnt.toNat ≤ 7) (hans : ∀ q, ∃ a d, s.ds.respond q = some (a, d)) :
    ∃ u, writeRaced s = .next u := by
  obtain ⟨a, d, hr⟩ := hans (.write (s.freeBytes s.count))
  rw [writeRaced, if_pos h7]
  split
  · exact ⟨_, rfl⟩
  · split
    · exact request_completes (s := s.drew _) hr fun _ _ _ => ⟨_, rfl⟩
    · exact request_completes (s := s.drew _) hr fun _ _ _ => ⟨_, rfl⟩

/-- A WRITE with one store in its range: the raced WRITE, and then the byte stored. -/
theorem runRacing_write_of_inRange {x : Nat} {v : Byte} (hx : s.base ≤ x ∧ x < s.base + s.count) (hsize : x < s.bufSize) :
    runRacing 0x00000006#32 [(x, v)] s =
      mapNext (fun u => u.setBuf (Memory.set u.buf x v)) (writeRaced (s.accept 0x00000006#32)) := by
  have hw : decode 0x00000006#32 = .ok .write := by decide
  have hafter : raceAfter 0x00000006#32 [(x, v)] = fun u => u.setBuf (Memory.set u.buf x v) := by
    funext u
    simp [raceAfter, hw]
  rw [runRacing_of_holds (by simpa [State.bufHolds] using hsize), runRaced_of_race hw, hafter]
  simpa [State.inRangeAny, State.inRange] using hx

end

/-- Settles O57: the raced WRITE is the end of a WRITE of some bytes, and the store lands after it. -/
theorem racedWriteSendsAnyBytes : Obligations.RacedWriteSendsAnyBytes := by
  intro s a0 a1 x v rest hs hscript hx hx' hin
  obtain ⟨⟨hrd, hwr⟩, hcan, hbuf, hidle⟩ := hs
  have hrace : runRacing 0x00000006#32 [(x, v)] ({ s with script := rest }.setArgs a0 a1) = _ :=
    runRacing_write_of_inRange ⟨hx, hx'⟩ (hx'.trans_le hin)
  rw [step_idle_cons hidle hscript, perform, hrace]
  refine ⟨fun hans => ?_, fun t ht => ?_⟩
  · obtain ⟨u, hu⟩ := writeRaced_completes (s := ({ s with script := rest }.setArgs a0 a1).accept 0x00000006#32) hwr hans
    exact ⟨_, congrArg (mapNext _) hu⟩
  · obtain ⟨u, hu, rfl⟩ := exists_of_mapNext_eq_next ht
    cases writeRaced_run hu with
    | outOfRange ho =>
      have ho : s.bufSize < a1.toNat + a0.toNat := of_decide_eq_true ho
      omega
    | @sent out _ _ _ _ hlen h =>
      obtain ⟨-, hcanonical, -⟩ := h.good ⟨⟨hrd, hwr⟩, hcan, hbuf⟩
      have hget := fun y => Memory.get_set hbuf.1 x y v
      cases h with
      | @accepted bytes p d _ hr =>
        refine ⟨out, .ok bytes p, hlen, rfl, ⟨d, hr, rfl⟩, ?_⟩
        simp_all [State.wrCanonical]
      | @failed e d hr =>
        refine ⟨out, .err e, hlen, rfl, ⟨d, hr, rfl⟩, ?_⟩
        simp_all [State.failIo_eq_finish, Status.completed]

end Sys2Proof.Machine

/-! PROOFS. How a command begins: without a request, or with its first one and what the answer leads to; from this what a
failed or an unanswered first request does, when a command completes, and what it asks of the downstream. -/

namespace Sys2Proof.Machine

/-! ### How a command begins -/

/-- What the answer to a first request leads to, `t` the state that has heard it: a failure ends the command with IO_ERROR
and leaves all but READ's BUF; a success completes it, or goes on to FLUSH's second request. -/
inductive Continuation (i : Instr) (t : State) : Answer → Result → Prop where
  | failed {e : Word32} (m : List Host.Cell) (n : Nat) (hm : i ≠ .read → m = t.buf ∧ n = 0) :
      Continuation i t (.err e) (.next (((t.setBuf m).drew n).failIo e))
  | completed {bytes : List Byte} {x : Word64} {u : State} (hlog : u.dsLog = t.dsLog) :
      Continuation i t (.ok bytes x) (.next u)
  | flushed {bytes : List Byte} {x : Word64} {u : State} (hi : i = .flush) (hlog : u.dsLog = t.dsLog) (hds : u.ds = t.ds) :
      Continuation i t (.ok bytes x) (flushDownstream u)
  | stopped {bytes : List Byte} {x : Word64} {f : Fault} (hs : ¬t.countsInRange) :
      Continuation i t (.ok bytes x) (.fault f)

/-- How a command begins: it completes without a request, it asks its first request, or a count out of range stops it. -/
inductive Opening (i : Instr) (s : State) : Result → Prop where
  | silent {u : State} (hq : firstRequest i s = none) (hlog : u.dsLog = s.dsLog) : Opening i s (.next u)
  | asks {q : Request} {k : State → Answer → Result} (hq : firstRequest i s = some q)
      (hk : ∀ t a, Continuation i t a (k t a)) : Opening i s (ask q s k)
  | stopped {f : Fault} (hs : ¬s.countsInRange) : Opening i s (.fault f)

section
variable {i : Instr} {s : State}

theorem Opening.of_request {q : Request} {k : State → List Byte → Word64 → Result} (hq : firstRequest i s = some q)
    (hk : ∀ t bytes x, Continuation i t (.ok bytes x) (k t bytes x)) : Opening i s (request q s k) :=
  .asks hq fun t a => by
    cases a with
    | err e => exact .failed t.buf 0 fun _ => ⟨rfl, rfl⟩
    | ok bytes x => exact hk t bytes x

theorem deliverBit_eq {v : Byte} {p : Nat} (hp : 1 ≤ p) (hp8 : p ≤ 8) : deliverBit v p s = .next (afterBit v p s) := by
  rw [deliverBit, readIndex, if_pos ⟨hp, hp8⟩, Option.bind_some, pos_eq_some_iff.2 ⟨by omega, rfl⟩]
  rfl

/-- Bits are pending in a number that the engine has no carry width for (rule R138). -/
theorem not_le_seven_of_splice_none {dir : Direction} {c : Count} {w : Byte} {src : List Byte} (h0 : c ≠ 0#4)
    (h : splice dir c.toNat w src = none) : ¬c.toNat ≤ 7 := fun h7 =>
  splice_eq_none_iff.1 h ⟨toNat_pos_of_ne_zero h0, h7⟩

/-! ### The commands, one by one -/

theorem execReadbit_opening (s : State) : Opening .readbit s (execReadbit s) := by
  unfold execReadbit
  split
  · next h0 =>
    refine .of_request (if_pos h0) fun t bytes _ => ?_
    cases bytes with
    | nil => exact .completed rfl
    | cons v rest =>
      dsimp only
      rw [deliverBit_eq (by omega) le_rfl]
      exact .completed rfl
  · next h0 =>
    by_cases h8 : s.rdCnt.toNat ≤ 8
    · rw [deliverBit_eq (toNat_pos_of_ne_zero h0) h8]
      exact .silent (if_neg h0) rfl
    · rw [deliverBit, readIndex, if_neg (by omega)]
      exact .stopped fun h => by omega

theorem execReadbyte_opening (s : State) : Opening .readbyte s (execReadbyte s) := by
  refine .of_request rfl fun t bytes _ => ?_
  cases bytes with
  | nil => exact .completed rfl
  | cons v rest =>
    dsimp only
    split
    · exact .completed rfl
    · next h0 =>
      split
      · next hnone => exact .stopped fun h => not_le_seven_of_splice_none h0 hnone h.1
      · exact .completed rfl

theorem readUnaligned_continuation {bytes : List Byte} {x : Word64} {t : State} (h0 : t.rdCnt ≠ 0#4) :
    Continuation .read t (.ok bytes x) (readUnaligned bytes t) := by
  cases bytes with
  | nil => exact .completed rfl
  | cons v rest =>
    dsimp only [readUnaligned]
    split
    · next hnone => exact .stopped fun h => not_le_seven_of_splice_none h0 hnone h.1
    · exact .completed rfl

theorem execRead_opening (s : State) : Opening .read s (execRead s) := by
  unfold execRead
  split
  · next ho => exact .silent (if_pos (.inl ho)) rfl
  · next ho =>
    split
    · next hn => exact .silent (if_pos (.inr hn)) rfl
    · next hn =>
      refine .asks (if_neg (not_or.2 ⟨ho, hn⟩)) fun t a => ?_
      cases a with
      | err e => exact .failed _ _ fun h => absurd rfl h
      | ok bytes x =>
        dsimp only
        split
        · exact .completed rfl
        · next h0 => exact readUnaligned_continuation h0

/-- WRITEBIT's body, for a command that asks what the body asks: a write of the full byte at the eighth bit (rule R170). -/
theorem writeBitBody_opening {b : Bool}
    (hq : firstRequest i s = if s.wrCnt.toNat = 7 then some (.write [s.withBit b]) else none) :
    Opening i s (writeBitBody b s) := by
  unfold writeBitBody
  split
  · next hnone => exact .stopped fun h => by simp [pos_of_lt s.dir (show s.wrCnt.toNat < 8 by omega)] at hnone
  · next ph hpos =>
    obtain ⟨-, rfl⟩ := pos_eq_some_iff.1 hpos
    dsimp only
    split
    · next h7 => exact .of_request (hq.trans (if_pos (by omega))) fun _ _ _ => .completed rfl
    · next h7 => exact .silent (hq.trans (if_neg (by omega))) rfl

theorem State.assembling_of_seven (h7 : s.wrCnt.toNat = 7) : s.assembling = s.wrVal :=
  if_neg fun h0 => by simp [h0] at h7

theorem execWritebit_opening (b : Bool) (s : State) : Opening (.writebit b) s (execWritebit b s) := by
  refine writeBitBody_opening ?_
  by_cases h7 : s.wrCnt.toNat = 7
  · simp [firstRequest, h7, pos_eq_some_iff.2 ⟨_, rfl⟩, State.withBit, State.assembling_of_seven h7]
  · simp [firstRequest, h7]

theorem execWritebiti_opening (s : State) : Opening .writebiti s (execWritebiti s) := by
  unfold execWritebiti
  have hzero : s.signedArg = 0 ↔ s.arg0 = 0#64 := BitVec.toInt_inj (y := 0#64)
  split
  · next hv => exact .silent (if_neg fun h => hv (hzero.2 h.1)) rfl
  · next hv =>
    have harg : s.arg0 = 0#64 := hzero.1 (not_not.1 hv)
    refine writeBitBody_opening ?_
    by_cases h7 : s.wrCnt.toNat = 7
    · simp [firstRequest, harg, h7, State.withBit, placeBit, State.assembling_of_seven h7]
    · simp [firstRequest, h7]

theorem execWrite_opening (s : State) : Opening .write s (execWrite s) := by
  unfold execWrite
  split
  · next ho => exact .silent (if_pos ho) rfl
  · next ho =>
    dsimp only
    split
    · next h0 => exact .of_request ((if_neg ho).trans (if_pos h0)) fun _ _ _ => .completed rfl
    · next h0 =>
      unfold writeUnaligned
      split
      · next hnone => exact .stopped fun h => not_le_seven_of_splice_none h0 hnone h.2
      · next out c hsplice =>
        obtain ⟨-, rfl, -⟩ := splice_eq_some_iff.1 hsplice
        exact .of_request ((if_neg ho).trans (if_neg h0)) fun _ _ _ => .completed rfl

theorem execFlush_opening (s : State) : Opening .flush s (execFlush s) := by
  unfold execFlush
  split
  · next h0 => exact .of_request (if_pos h0) fun _ _ _ => .completed rfl
  · next h0 =>
    split
    · exact .of_request (if_neg h0) fun _ _ _ => .flushed rfl rfl rfl
    · exact .stopped fun h => by omega

theorem execSeek_opening (org : BitVec 2) (s : State) : Opening (.seek org) s (execSeek org s) := by
  unfold execSeek
  split
  · next horg => exact .silent (by rw [firstRequest, horg]) rfl
  · next o horg =>
    split
    · next hp => exact .silent (by rw [firstRequest, horg]; exact if_pos hp) rfl
    · next hp => exact .of_request (by rw [firstRequest, horg]; exact if_neg hp) fun _ _ _ => .completed rfl

/-- Every command begins in one of the three ways. -/
theorem exec_opening (i : Instr) (s : State) : Opening i s (exec i s) := by
  cases i with
  | readbit => exact execReadbit_opening s
  | readbyte => exact execReadbyte_opening s
  | read => exact execRead_opening s
  | writebit b => exact execWritebit_opening b s
  | writebiti => exact execWritebiti_opening s
  | write => exact execWrite_opening s
  | flush => exact execFlush_opening s
  | seek org => exact execSeek_opening org s
  | getpos | setpos | getlen | setlen =>
    unfold exec
    exact .of_request rfl fun _ _ _ => .completed rfl
  | getcaps => exact .silent rfl rfl

end

/-! ### A first request that fails or is never answered -/

section
variable {i : Instr} {s t : State} {q : Request}

/-- With the counts in range a command that has a first request asks it. -/
theorem exec_eq_ask (hs : s.countsInRange) (hq : firstRequest i s = some q) :
    ∃ k, exec i s = ask q s k ∧ ∀ t a, Continuation i t a (k t a) := by
  have hopen := exec_opening i s
  generalize exec i s = r at hopen ⊢
  cases hopen with
  | silent hnone _ => simp [hq] at hnone
  | asks hq' hk =>
    obtain rfl := Option.some.inj (hq'.symm.trans hq)
    exact ⟨_, rfl, hk⟩
  | stopped hstop => exact absurd hs hstop

/-- A request that failed ends its command in the state `failAfter` describes. -/
theorem failIo_eq_failAfter (e : Word32) : s.failIo e = failAfter (s.setIoerr e) .ioError :=
  fail_eq_failAfter (s := s.setIoerr e) (by decide)

end

/-- Settles O37: the command asks its first request, and the failure is all that follows. -/
theorem failedRequestEndsCommand : Obligations.FailedRequestEndsCommand := by
  intro i s q e d ⟨hcounts, _⟩ hq hr
  obtain ⟨k, hexec, hk⟩ := exec_eq_ask hcounts hq
  have hcont := hk (s.heard q (.err e) d) (.err e)
  rw [hexec, ask_answered k hr]
  generalize k _ _ = r at hcont
  cases hcont with
  | failed m n hm =>
    refine ⟨_, rfl, failIo_eq_failAfter e, fun hi => ?_⟩
    simp [hm hi, State.failIo_eq_finish]

/-- Settles O38: the command asks its first request, FLUSH its second after the accepted byte, and a request that is never
answered is the fault. -/
theorem unansweredRequestIsStuck : Obligations.UnansweredRequestIsStuck := by
  refine ⟨fun i s q hs hq hr => ?_, fun s v bytes x d hs h0 hv hr hd => ?_⟩
  · obtain ⟨k, hexec, -⟩ := exec_eq_ask hs.1 hq
    rw [hexec, ask_unanswered k hr]
  · obtain rfl : v = s.flushByte := hv
    obtain ⟨⟨-, h7⟩, -⟩ := hs
    have hflush : exec .flush s = request (.write [s.flushByte]) s fun t _ _ => flushDownstream (t.setWr 0x00#8 0#4) :=
      (if_neg h0).trans (if_pos (by omega))
    rw [hflush, request_answered _ hr, flushDownstream, request_unanswered]
    exact hd

/-! ### When a command completes -/

/-- The command completes, or its request is never answered, which no memory stream does (rules R86, R246). -/
def CompletesOrStuck (s : State) (r : Result) : Prop :=
  (∃ t, r = .next t) ∨ (r = .fault .unanswered ∧ ¬∃ m, s.ds = .rms m)

section
variable {i : Instr} {s t : State} {q : Request}

theorem CompletesOrStuck.of_ask {k : State → Answer → Result}
    (hk : ∀ a d, CompletesOrStuck (s.heard q a d) (k (s.heard q a d) a)) : CompletesOrStuck s (ask q s k) := by
  cases hr : s.ds.respond q with
  | none => exact .inr ⟨ask_unanswered k hr, fun ⟨m, hm⟩ => by simp [hm] at hr⟩
  | some p =>
    obtain ⟨a, d⟩ := p
    obtain ⟨-, -, hkind⟩ := Evolves.heard hr
    rw [ask_answered k hr]
    exact (hk a d).imp_right fun ⟨hstuck, hno⟩ => ⟨hstuck, fun hm => hno (hkind.1 hm)⟩

theorem flushDownstream_completesOrStuck : CompletesOrStuck s (flushDownstream s) := by
  unfold flushDownstream request
  exact .of_ask fun a _ => by cases a <;> exact .inl ⟨_, rfl⟩

theorem Continuation.completesOrStuck {a : Answer} {r : Result} (h : Continuation i t a r) (ht : t.countsInRange) :
    CompletesOrStuck t r := by
  cases h with
  | failed _ _ _ | completed _ => exact .inl ⟨_, rfl⟩
  | @flushed _ _ u _ _ hds =>
    have := flushDownstream_completesOrStuck (s := u)
    rwa [CompletesOrStuck, hds] at this
  | stopped hstop => exact absurd ht hstop

/-- With the counts in range nothing but an unanswered request keeps a command from completing. -/
theorem exec_completesOrStuck (i : Instr) (hs : s.countsInRange) : CompletesOrStuck s (exec i s) := by
  have hopen := exec_opening i s
  generalize exec i s = r at hopen
  cases hopen with
  | silent _ _ => exact .inl ⟨_, rfl⟩
  | asks _ hk => exact .of_ask fun a d => (hk _ a).completesOrStuck hs
  | stopped hstop => exact absurd hs hstop

/-- Over a memory stream every command completes. -/
theorem exec_completes_of_rms {m : Rms} (i : Instr) (hs : s.countsInRange) (hm : s.ds = .rms m) :
    ∃ t, exec i s = .next t :=
  (exec_completesOrStuck i hs).resolve_right fun h => h.2 ⟨m, hm⟩

end

/-- Settles O39: both parts of what counts in range give. -/
theorem commandsCompleteWhenAnswered : Obligations.CommandsCompleteWhenAnswered := fun i _ hs =>
  ⟨(exec_completesOrStuck i hs.1).imp_right And.left, fun _ hr => exec_completes_of_rms i hs.1 hr⟩

/-! ### What a command asks -/

/-- A request of the command `i` in `s` that is as large as the rules allow: a read of at least one byte, a write of one
byte or of WRITE's n (rules R79, R80, R88). -/
abbrev SizedFor (i : Instr) (s : State) (q : Request) : Prop :=
  (∀ n, q = .read n → 1 ≤ n) ∧
    ∀ bytes, q = .write bytes → bytes.length = 1 ∨ (i = .write ∧ bytes.length = s.arg0.toNat)

section
variable {i : Instr} {s t : State} {q : Request}

theorem SizedFor.read {n : Nat} (hn : n ≠ 0) : SizedFor i s (.read n) :=
  ⟨fun _ h => by cases h; exact Nat.one_le_iff_ne_zero.2 hn, nofun⟩

theorem SizedFor.write {out : List Byte} (h : out.length = 1 ∨ (i = .write ∧ out.length = s.arg0.toNat)) :
    SizedFor i s (.write out) :=
  ⟨nofun, fun _ hout => by cases hout; exact h⟩

theorem firstRequest_sized (hq : firstRequest i s = some q) : SizedFor i s q := by
  cases i with
  | readbit =>
    obtain ⟨-, rfl⟩ : s.rdCnt = 0#4 ∧ Request.read 1 = q := by simpa [firstRequest] using hq
    exact .read one_ne_zero
  | readbyte =>
    cases hq
    exact .read one_ne_zero
  | read =>
    obtain ⟨⟨-, hn⟩, rfl⟩ : (s.outOfBuf = false ∧ s.count ≠ 0) ∧ Request.read s.count = q := by
      simpa [firstRequest] using hq
    exact .read hn
  | writebit b =>
    obtain ⟨-, p, -, rfl⟩ :
        s.wrCnt.toNat = 7 ∧ ∃ p, pos s.dir 7 = some p ∧ Request.write [placeBit s.wrVal p b] = q := by
      simpa [firstRequest] using hq
    exact .write (.inl rfl)
  | writebiti =>
    obtain ⟨-, rfl⟩ : (s.arg0 = 0#64 ∧ s.wrCnt.toNat = 7) ∧ Request.write [s.wrVal] = q := by
      simpa [firstRequest] using hq
    exact .write (.inl rfl)
  | write =>
    simp only [firstRequest] at hq
    split at hq
    · cases hq
    · split at hq <;> cases hq
      · exact .write (.inr ⟨rfl, Memory.read_length ..⟩)
      · exact .write (.inr ⟨rfl, (spliceOut_length ..).trans (Memory.read_length ..)⟩)
  | flush =>
    simp only [firstRequest] at hq
    split at hq <;> cases hq
    · exact ⟨nofun, nofun⟩
    · exact .write (.inl rfl)
  | seek org =>
    simp only [firstRequest] at hq
    split at hq
    · cases hq
    · split at hq <;> cases hq
      exact ⟨nofun, nofun⟩
  | getpos | setpos | getlen | setlen =>
    cases hq
    exact ⟨nofun, nofun⟩
  | getcaps => cases hq

/-- Behind its first request only FLUSH asks again, and only the flush of the downstream. -/
theorem Continuation.dsLog {a : Answer} (h : Continuation i t a (.next u)) :
    u.dsLog = t.dsLog ∨ i = .flush ∧ ∃ b, u.dsLog = t.dsLog ++ [(.flush, b)] := by
  generalize hr : Host.Outcome.next u = r at h
  cases h with
  | failed m n hm => cases hr; exact .inl rfl
  | completed hlog => cases hr; exact .inl hlog
  | flushed hi hlog hds =>
    cases PassRun.of_request (r := fun _ => 0#64) hr.symm with
    | answered _ | failed _ => exact .inr ⟨hi, _, congrArg (· ++ _) hlog⟩
  | stopped hs => cases hr

end

/-- Settles O45: a command asks nothing, or its first request, whose size its rule fixes, and then at most FLUSH's second. -/
theorem requestsIssued : Obligations.RequestsIssued := by
  intro i s t h
  have hopen := exec_opening i s
  rw [h] at hopen
  generalize hr : Host.Outcome.next t = r at hopen
  cases hopen with
  | silent _ hlog =>
    cases hr
    exact ⟨[], by simp [hlog]⟩
  | @asks q k hq hk =>
    obtain ⟨a, d, -, hnext⟩ := ask_next hr.symm
    have hsize := firstRequest_sized hq
    have hcont := hk (s.heard q a d) a
    rw [hnext] at hcont
    rcases hcont.dsLog with hlog | ⟨rfl, b, hlog⟩
    · refine ⟨[(q, a)], hlog, by split <;> simp, ?_⟩
      simpa [SizedFor] using hsize
    · refine ⟨[(q, a), (.flush, b)], by simp [hlog], by simp, ?_⟩
      simpa [SizedFor] using hsize
  | stopped _ => cases hr

/-- Settles O48: the memory stream takes at most n bytes of CONTENT, and an external answer is cut to n. -/
theorem readAnswersAtMostN : Obligations.ReadAnswersAtMostN := fun _ _ _ _ _ => respond_read_length_le

end Sys2Proof.Machine

/-! PROOFS. The round trip over the memory stream: bits written one by one, flushed, and read back from the start
(rule R76). -/

namespace Sys2Proof.Machine

/-! ### Writing bits to a memory stream -/

/-- A memory stream that stands at its end takes the bytes behind its CONTENT (rule R247). -/
theorem Downstream.respond_write_at_end {d : Downstream} {content : List Byte} (out : List Byte)
    (hd : d = .rms ⟨content, content.length⟩) :
    d.respond (.write out) = some (.ok [] 0#64, .rms ⟨content ++ out, (content ++ out).length⟩) := by
  simp [hd, Rms.respond, Rms.write, padTo]

theorem streamBits_append (dir : Direction) (a b : List Byte) :
    streamBits dir (a ++ b) = streamBits dir a ++ streamBits dir b := List.flatMap_append

/-- The bits `bits` are written: those of CONTENT, the stream at its end, and then the pending ones (rules R38, R76); the
read side and ARG0 are still empty. -/
structure Written (bits : List Bool) (s : State) : Prop where
  rdCnt : s.rdCnt = 0#4
  arg0 : s.arg0 = 0#64
  wrCnt : s.wrCnt.toNat ≤ 7
  canonical : s.assembling &&& ~~~(fill s.dir s.wrCnt.toNat) = 0x00#8
  stream : ∃ content, s.ds = .rms ⟨content, content.length⟩ ∧ streamBits s.dir content ++ pendingWrite s = bits

/-- `bits` are the next bits to read: those unread in the accumulator, then those of CONTENT from POS on (rules R35, R76). -/
structure Readable (bits : List Bool) (s : State) : Prop where
  counts : s.countsInRange
  stream : ∃ r, s.ds = .rms r ∧ bits <+: pendingRead s ++ streamBits s.dir (r.content.drop r.pos)

section
variable {bits : List Bool} {s t : State}

theorem Written.countsInRange (h : Written bits s) : s.countsInRange := ⟨by simp [h.rdCnt], h.wrCnt⟩

theorem Written.writebit {b : Bool} (hs : Written bits s) (h : WritebitRun b s t) : Written (bits ++ [b]) t := by
  obtain ⟨hrd, harg, hle, hcan, content, hds, rfl⟩ := hs
  have htake : (byteBits s.dir (s.withBit b)).take (s.wrCnt.toNat + 1) = pendingWrite s ++ [b] := by
    rw [← assembling_take]
    exact byteBits_placeBit_take (by omega) hcan b
  cases h with
  | placed h7 =>
    have hcnt : (s.wrCnt + 1#4).toNat = s.wrCnt.toNat + 1 := by bv_omega
    have hne : s.wrCnt + 1#4 ≠ 0#4 := by bv_omega
    refine ⟨hrd, harg, ?_, ?_, content, hds, ?_⟩
    · simp [hcnt]
      omega
    · have hplaced : s.withBit b &&& ~~~(fill s.dir (s.wrCnt.toNat + 1)) = 0x00#8 := placeBit_canonical (by omega) hcan b
      simpa [State.assembling, hne, hcnt] using hplaced
    · simpa [pendingWrite, hcnt] using htake
  | sent h7 hr =>
    rw [Downstream.respond_write_at_end _ hds] at hr
    cases hr
    refine ⟨hrd, harg, by simp, by simp [State.assembling], _, rfl, ?_⟩
    rw [h7, List.take_of_length_le (by simp)] at htake
    simpa [pendingWrite, h7, streamBits_append] using htake
  | failed h7 hr =>
    rw [Downstream.respond_write_at_end _ hds] at hr
    cases hr

theorem Written.writeBits {more : List Bool} (hs : Written bits s) :
    ∃ t, writeBits more s = some t ∧ Written (bits ++ more) t := by
  induction more generalizing bits s with
  | nil => exact ⟨s, rfl, by simpa using hs⟩
  | cons b rest ih =>
    obtain ⟨content, hds, -⟩ := hs.stream
    obtain ⟨t, ht⟩ := exec_completes_of_rms (.writebit b) hs.countsInRange hds
    obtain ⟨u, hu, hwritten⟩ := ih (hs.writebit (writeBitBody_run ht))
    exact ⟨u, by rw [Machine.writeBits, ht]; exact hu, by simpa using hwritten⟩

/-- The byte FLUSH sends begins with the pending bits (rules R134, R190). -/
theorem pendingWrite_prefix_flushByte (s : State) : pendingWrite s <+: byteBits s.dir s.flushByte := by
  have htake : pendingWrite s = (byteBits s.dir s.flushByte).take s.wrCnt.toNat := by
    refine List.ext_getElem (by simp [pendingWrite]) fun k hk _ => ?_
    have hlt : k < s.wrCnt.toNat ∧ k < 8 := by simpa [pendingWrite] using hk
    simp [pendingWrite, State.flushByte, bitAt_and, bitAt_fill hlt.2, hlt.1]
  rw [htake]
  exact List.take_prefix _ _

/-- What the host has written is in CONTENT, and both sides are empty: after FLUSH. -/
structure Flushed (bits : List Bool) (s : State) : Prop where
  rdCnt : s.rdCnt = 0#4
  arg0 : s.arg0 = 0#64
  wrCnt : s.wrCnt = 0#4
  stream : ∃ r, s.ds = .rms r ∧ bits <+: streamBits s.dir r.content

/-- After FLUSH the written bits are in CONTENT, what fills the last byte behind them (rule R190). -/
theorem Written.flush (hs : Written bits s) (h : FlushRun s t) : Flushed bits t := by
  obtain ⟨hrd, harg, hle, -, content, hds, rfl⟩ := hs
  cases h with
  | empty h0 hpass =>
    cases hpass with
    | answered hr =>
      rw [hds] at hr
      cases hr
      exact ⟨hrd, harg, h0, _, rfl, by simp [pendingWrite, h0, Rms.respond]⟩
    | failed hr =>
      rw [hds] at hr
      cases hr
  | sent h0 hr hpass =>
    rw [Downstream.respond_write_at_end _ hds] at hr
    cases hr
    cases hpass with
    | answered hr =>
      cases hr
      refine ⟨hrd, harg, rfl, _, rfl, ?_⟩
      simpa [Rms.respond, streamBits_append] using pendingWrite_prefix_flushByte s
    | failed hr => cases hr
  | failed h0 hr =>
    rw [Downstream.respond_write_at_end _ hds] at hr
    cases hr

/-- SEEK 0 BEGIN makes all of CONTENT readable (rule R192). -/
theorem Flushed.seek (hs : Flushed bits s) : ∃ t, exec (.seek 0#2) s = .next t ∧ Readable bits t := by
  obtain ⟨hrd, harg, hwr, r, hds, hbits⟩ := hs
  have hr : s.ds.respond (.seek s.signedArg .begin) = some (.ok [] (quantity 0), .rms { r with pos := 0 }) := by
    simp [hds, Rms.respond, Rms.seek, Rms.seekBase, State.signedArg, harg]
  have hexec : exec (.seek 0#2) s = request (.seek s.signedArg .begin) s fun t _ p => .next (t.finish .ok p false) := rfl
  refine ⟨_, hexec.trans (request_answered _ hr), ⟨by simp [hrd], by simp [hwr]⟩, _, rfl, ?_⟩
  simpa [pendingRead, hrd] using hbits

/-! ### Reading bits back -/

/-- A bit in RES is 0 or 1 (rules R45, R151). -/
theorem afterBit_res (v : Byte) (p : Nat) (s : State) :
    (afterBit v p s).res = if bitAt s.dir v (8 - p) then 1#64 else 0#64 := by
  rw [afterBit, State.finish_res, getBit, BitVec.and_one_eq_setWidth_ofBool_getLsbD, BitVec.getLsbD_ushiftRight, bitAt,
    Nat.add_zero]
  cases v.getLsbD (nextFree s.dir (8 - p)) <;> rfl

/-- READBIT delivers the first of `p` unread bits of `v` and leaves the others in the accumulator (rule R151). -/
theorem readable_afterBit {b : Bool} {v : Byte} {p : Nat} {r : Rms} (hp : 1 ≤ p) (hp8 : p ≤ 8)
    (hwr : s.wrCnt.toNat ≤ 7) (hds : s.ds = .rms r) (hbits : b :: bits <+: carryBits s.dir p v ++ streamBits s.dir (r.content.drop r.pos)) :
    (afterBit v p s).res = (if b then 1#64 else 0#64) ∧ Readable bits (afterBit v p s) := by
  have hcnt : (BitVec.ofNat 4 (p - 1)).toNat = p - 1 := Nat.mod_eq_of_lt (by omega)
  rw [carryBits_eq_cons hp hp8, List.cons_append, List.cons_prefix_cons] at hbits
  obtain ⟨rfl, hrest⟩ := hbits
  refine ⟨afterBit_res v p s, ⟨?_, hwr⟩, r, hds, ?_⟩
  · simp [afterBit, hcnt]
    omega
  · simpa [afterBit, pendingRead, hcnt] using hrest

/-- READBIT returns the next bit, and the bits behind it are next. -/
theorem Readable.readbit {b : Bool} (hs : Readable (b :: bits) s) (h : ReadbitRun s t) :
    t.res = (if b then 1#64 else 0#64) ∧ Readable bits t := by
  obtain ⟨⟨hrd, hwr⟩, r, hds, hbits⟩ := hs
  cases h with
  | pending h0 h8 => exact readable_afterBit (toNat_pos_of_ne_zero h0) h8 hwr hds hbits
  | @fetched v x d h0 hr =>
    rw [hds, Downstream.respond_rms, Rms.respond, Rms.read] at hr
    obtain ⟨⟨htake, -⟩, rfl⟩ : ((r.content.drop r.pos).take 1 = [v] ∧ _) ∧ _ := by simpa using hr
    refine readable_afterBit (by omega) le_rfl hwr rfl ?_
    have hnext : r.content.drop r.pos = v :: r.content.drop (r.pos + 1) := by
      rw [← List.drop_drop, ← List.singleton_append, ← htake, List.take_append_drop]
    have hone : min 1 (r.content.length - r.pos) = 1 := by simpa using congrArg List.length htake
    simpa [pendingRead, h0, hnext, carryBits_eight, hone] using hbits
  | sentinel h0 hr =>
    obtain ⟨⟨hend, -⟩, -⟩ : (r.content.length ≤ r.pos ∧ _) ∧ _ := by
      simpa [hds, Rms.respond, Rms.read] using hr
    have hnil := List.drop_eq_nil_of_le hend
    simp [pendingRead, h0, hnil] at hbits
  | failed h0 hr => simp [hds, Rms.respond, Rms.read] at hr

theorem Readable.readBits (hs : Readable bits s) :
    readBits bits.length s = some (bits.map fun b => if b then 1#64 else 0#64) := by
  induction bits generalizing s with
  | nil => rfl
  | cons b rest ih =>
    obtain ⟨r, hds, -⟩ := hs.stream
    obtain ⟨t, ht⟩ := exec_completes_of_rms .readbit hs.counts hds
    obtain ⟨hres, hrest⟩ := hs.readbit (execReadbit_run ht)
    rw [List.length_cons, Machine.readBits, ht]
    simp [ih hrest, hres]

end

/-- Settles O31: the bits written stand in CONTENT and the accumulator, FLUSH moves the last ones out, and from the start of
the stream READBIT returns one after another. -/
theorem writtenBitsReadBack : Obligations.WrittenBitsReadBack := by
  intro s bits hrd hwr harg hds
  have hstart : Written [] s :=
    ⟨hrd, harg, by simp [hwr], by simp [State.assembling, hwr], [], hds, by simp [pendingWrite, hwr]⟩
  obtain ⟨t, hwrite, hwritten⟩ := hstart.writeBits (more := bits)
  obtain ⟨content, htds, -⟩ := hwritten.stream
  obtain ⟨u, hflush⟩ := exec_completes_of_rms .flush hwritten.countsInRange htds
  obtain ⟨v, hseek, hreadable⟩ := (hwritten.flush (execFlush_run hflush)).seek
  exact ⟨t, u, v, hwrite, hflush, hseek, hreadable.readBits⟩

end Sys2Proof.Machine

/-! PROOFS. The command word: its four fields, the decoder as the inverse of the encoder, the rows of table 30-3, the
causes of an illegal word, and the words the assembler emits. -/

namespace Sys2Proof

open Machine (toNat_append_eq_add)

/-! ### A word and its fields -/

section
variable {w m p : Word32} {opc : BitVec 8} {b : BitVec 1} {org : BitVec 2}

theorem opcField_toNat (w : Word32) : (opcField w).toNat = w.toNat % 256 := by simp [opcField]

theorem bField_toNat (w : Word32) : (bField w).toNat = w.toNat / 256 % 2 := by
  simp [bField, Nat.shiftRight_eq_div_pow]

theorem orgField_toNat (w : Word32) : (orgField w).toNat = w.toNat / 512 % 4 := by
  simp [orgField, Nat.shiftRight_eq_div_pow]

theorem rsvField_toNat (w : Word32) : (rsvField w).toNat = w.toNat / 2048 := by
  have hw := w.isLt
  rw [rsvField, BitVec.extractLsb'_toNat, Nat.shiftRight_eq_div_pow]
  omega

theorem packWord_toNat (opc : BitVec 8) (b : BitVec 1) (org : BitVec 2) :
    (packWord opc b org).toNat = org.toNat * 512 + b.toNat * 256 + opc.toNat := by
  rw [packWord, toNat_append_eq_add, toNat_append_eq_add, toNat_append_eq_add, BitVec.toNat_zero]
  ring

/-- A word whose reserved bits are 0 is put together from its other fields (rule R100). -/
theorem packWord_fields (h : rsvField w = 0#21) : packWord (opcField w) (bField w) (orgField w) = w := by
  have hrsv : w.toNat / 2048 = 0 := by rw [← rsvField_toNat, h, BitVec.toNat_zero]
  apply BitVec.eq_of_toNat_eq
  rw [packWord_toNat, opcField_toNat, bField_toNat, orgField_toNat]
  omega

/-- A field that the mask covers holds what the pattern holds. -/
theorem extractLsb'_eq_of_and_eq {start len : Nat} (h : w &&& m = p)
    (hm : m.extractLsb' start len = BitVec.allOnes len) : w.extractLsb' start len = p.extractLsb' start len := by
  rw [← h, BitVec.extractLsb'_and, hm, BitVec.and_allOnes]

end

/-! ### The decoder -/

section
variable {w : Word32} {opc : BitVec 8} {b : BitVec 1} {org : BitVec 2} {i : Instr}

/-- The opcodes of table 30-1 are 0x01 to 0x0D. -/
theorem exists_opcodeTable_iff :
    (∃ i, opcodeTable opc b org = some i) ↔ 0 < opc.toNat ∧ opc.toNat < 0x0E := by
  unfold opcodeTable
  split
  case h_14 =>
    have hout : ¬(0 < opc.toNat ∧ opc.toNat < 0x0E) := by grind
    simp [hout]
  all_goals simp [*]

/-- The command of table 30-1 has the word of its fields, when B and ORG are 0 wherever it does not use them, and it is
well-formed unless ORG = 3. -/
theorem opcodeTable_sound (h : opcodeTable opc b org = some i) (hb : b ≠ 0#1 → opc = 0x04#8)
    (horg : org ≠ 0#2 → opc = 0x08#8) (h3 : org ≠ 3#2) : i.wellFormed = true ∧ encode i = packWord opc b org := by
  have hb0 : opc ≠ 0x04#8 → b = 0#1 := fun hne => not_not.mp (mt hb hne)
  have horg0 : opc ≠ 0x08#8 → org = 0#2 := fun hne => not_not.mp (mt horg hne)
  unfold opcodeTable at h
  split at h
  case h_14 => cases h
  all_goals
    rename_i hopc
    obtain ⟨-, rfl⟩ := BitVec.toNat_eq_nat.mp hopc
    cases h
  case h_4 =>
    obtain rfl := horg0 (by decide)
    exact ⟨rfl, by revert b; decide⟩
  case h_8 =>
    obtain rfl := hb0 (by decide)
    exact ⟨decide_eq_true h3, rfl⟩
  all_goals
    obtain rfl := horg0 (by decide)
    obtain rfl := hb0 (by decide)
    exact ⟨rfl, rfl⟩

/-- A word decodes to the command of its opcode when no check of rule R105 rejects it. -/
theorem decode_eq_ok_iff : decode w = .ok i ↔
    rsvField w = 0#21 ∧ opcodeTable (opcField w) (bField w) (orgField w) = some i ∧
      (bField w ≠ 0#1 → opcField w = 0x04#8) ∧ (orgField w ≠ 0#2 → opcField w = 0x08#8) ∧ orgField w ≠ 3#2 := by
  unfold decode
  by_cases hrsv : rsvField w = 0#21
  · cases opcodeTable (opcField w) (bField w) (orgField w) with
    | none => simp [hrsv]
    | some j => split_ifs <;> simp_all
  · simp [hrsv]

/-- The words that no cause of rule R104 makes illegal. -/
theorem exists_decode_iff : (∃ i, decode w = .ok i) ↔
    w.toNat / 2048 = 0 ∧ (0 < w.toNat % 256 ∧ w.toNat % 256 < 0x0E) ∧
      (w.toNat / 256 % 2 ≠ 0 → w.toNat % 256 = 0x04) ∧ (w.toNat / 512 % 4 ≠ 0 → w.toNat % 256 = 0x08) ∧
      w.toNat / 512 % 4 ≠ 3 := by
  simp only [decode_eq_ok_iff, exists_and_left, exists_and_right, exists_opcodeTable_iff, ne_eq, ← BitVec.toNat_inj,
    rsvField_toNat, opcField_toNat, bField_toNat, orgField_toNat, BitVec.toNat_ofNat]

/-- A well-formed command comes back from its word (rule R105). -/
theorem decode_encode (hi : i.wellFormed = true) : decode (encode i) = .ok i := by
  cases i with
  | writebit b => cases b <;> rfl
  | seek org => revert org; decide
  | _ => rfl

end

/-! ### The rows of table 30-3 -/

section
variable {w : Word32} {i : Instr} {r : TableRow}

theorem mem_tableRows_iff : r ∈ tableRows ↔ ∃ i, rowOf i = r := by
  constructor
  · intro h
    simp only [tableRows, List.mem_cons, List.not_mem_nil, or_false] at h
    rcases h with h | h | h | h | h | h | h | h | h | h | h | h | h <;> exact ⟨_, h.symm⟩
  · rintro ⟨i, rfl⟩
    cases i <;> simp [tableRows, rowOf]

/-- A command's word has the fixed bits of its row. -/
theorem encode_and_mask (i : Instr) : encode i &&& (rowOf i).mask = (rowOf i).pattern := by
  cases i with
  | writebit b => exact Laws.CommandWord.writebit b
  | seek org => exact Laws.CommandWord.seek org
  | _ => rfl

theorem accepts_iff :
    r.accepts w = true ↔ w &&& r.mask = r.pattern ∧ (r.orgConstraint = true → orgField w ≠ 3#2) := by
  cases hc : r.orgConstraint <;> simp [TableRow.accepts, hc]

/-- A well-formed command's word matches its row (rule R103). -/
theorem rowOf_accepts_encode (hi : i.wellFormed = true) : (rowOf i).accepts (encode i) = true := by
  refine accepts_iff.mpr ⟨encode_and_mask i, ?_⟩
  cases i with
  | seek org => revert org; decide
  | _ => exact nofun

/-- A row that fixes every bit has one word, its command's. -/
theorem eq_encode_of_full_mask (hmask : (rowOf i).mask = BitVec.allOnes 32) (h : w &&& (rowOf i).mask = (rowOf i).pattern) :
    w = encode i := by
  have hword := encode_and_mask i
  rw [hmask, BitVec.and_allOnes] at h hword
  exact h.trans hword.symm

/-- A word that matches a row is legal: B is free in WRITEBIT's row, ORG in SEEK's, and every other row is one word. -/
theorem exists_decode_of_accepts (h : (rowOf i).accepts w = true) : ∃ j, decode w = .ok j := by
  obtain ⟨hmatch, hconstraint⟩ := accepts_iff.mp h
  cases i with
  | writebit b =>
    change w &&& 0xFFFFFEFF#32 = 0x00000004#32 at hmatch
    have hrsv : rsvField w = 0#21 := extractLsb'_eq_of_and_eq hmatch (by decide)
    have horg : orgField w = 0#2 := extractLsb'_eq_of_and_eq hmatch (by decide)
    have hopc : opcField w = 0x04#8 := extractLsb'_eq_of_and_eq hmatch (by decide)
    exact ⟨_, decode_eq_ok_iff.mpr ⟨hrsv, by rw [hopc]; rfl, fun _ => hopc, fun hne => absurd horg hne, by simp [horg]⟩⟩
  | seek org =>
    change w &&& 0xFFFFF9FF#32 = 0x00000008#32 at hmatch
    have hrsv : rsvField w = 0#21 := extractLsb'_eq_of_and_eq hmatch (by decide)
    have hb : bField w = 0#1 := extractLsb'_eq_of_and_eq hmatch (by decide)
    have hopc : opcField w = 0x08#8 := extractLsb'_eq_of_and_eq hmatch (by decide)
    exact ⟨_, decode_eq_ok_iff.mpr ⟨hrsv, by rw [hopc]; rfl, fun hne => absurd hb hne, fun _ => hopc, hconstraint rfl⟩⟩
  | _ =>
    rw [eq_encode_of_full_mask rfl hmatch]
    exact ⟨_, decode_encode rfl⟩

end

/-- Settles O4: the fields give the command its word back, and each command's word decodes to it. -/
theorem decodeInvertsEncode : Obligations.DecodeInvertsEncode := by
  intro w i
  constructor
  · intro h
    obtain ⟨hrsv, htable, hb, horg, h3⟩ := decode_eq_ok_iff.mp h
    obtain ⟨hwf, hword⟩ := opcodeTable_sound htable hb horg h3
    exact ⟨hwf, hword.trans (packWord_fields hrsv)⟩
  · rintro ⟨hwf, rfl⟩
    exact decode_encode hwf

/-- Settles O5: a legal word is the word of its command, and a word that matches a row has the fields of a command. -/
theorem legalWordsMatchTable : Obligations.LegalWordsMatchTable := by
  have hown : ∀ w i, decode w = .ok i → (rowOf i).accepts w = true := by
    intro w i h
    obtain ⟨hwf, rfl⟩ := (decodeInvertsEncode w i).mp h
    exact rowOf_accepts_encode hwf
  refine fun w => ⟨⟨?_, ?_⟩, hown w⟩
  · rintro ⟨i, h⟩
    exact ⟨rowOf i, mem_tableRows_iff.mpr ⟨i, rfl⟩, hown w i h⟩
  · rintro ⟨r, hr, hacc⟩
    obtain ⟨i, rfl⟩ := mem_tableRows_iff.mp hr
    exact exists_decode_of_accepts hacc

/-- Settles O7, by evaluating the decoder. -/
theorem sampleWordsDecode : Obligations.SampleWordsDecode := by
  unfold Obligations.SampleWordsDecode
  decide

namespace Machine

/-- Settles O6: the causes are together the negation of what makes a word legal, and an illegal word ends by `raise`. -/
theorem illegalWordsComplete : Obligations.IllegalWordsComplete := by
  refine fun w => ⟨?_, fun s e h => ?_⟩
  · have herror : (∃ e, decode w = .error e) ↔ ¬∃ i, decode w = .ok i := by cases decode w <;> simp
    rw [herror, exists_decode_iff]
    omega
  · rw [runCommand_illegal h, fail_eq_failAfter (by decide)]
    rfl

/-- Settles O34: ORG = 3 names no origin. -/
theorem seekOfNoOriginIsIllegal : Obligations.SeekOfNoOriginIsIllegal := fun s =>
  congrArg Host.Outcome.next (fail_eq_failAfter (s := s) (by decide))

/-! ### The assembler -/

/-- A signed operand of 64 bits arrives unchanged (rule R106). -/
theorem pattern64_toInt {v : Int} (hlo : -2 ^ 63 ≤ v) (hhi : v < 2 ^ 63) : (pattern64 v).toInt = v :=
  BitVec.toInt_ofInt_eq_self (by decide) hlo hhi

/-- Settles O8: each line's command is well-formed, so its word decodes to it, and an operand that fits is its register. -/
theorem assembledLinesAreLegal : Obligations.AssembledLinesAreLegal := by
  refine ⟨fun l => ?_, rfl, fun l hl => ?_, by decide, fun base n hbase hn => ?_, fun v hlo hhi => ?_⟩
  · cases l with
    | seek off origin => cases origin <;> exact decode_encode (i := .seek _) rfl
    | _ => exact decode_encode rfl
  · cases l with
    | read base n => exact absurd rfl (hl base n).1
    | write base n => exact absurd rfl (hl base n).2
    | _ => rfl
  · have harg0 : (BitVec.ofNat 64 n).toNat = n := Nat.mod_eq_of_lt hn
    have harg1 : (BitVec.ofNat 32 base).toNat = base := Nat.mod_eq_of_lt hbase
    exact ⟨harg0, harg1, harg0, harg1⟩
  · have harg0 := pattern64_toInt hlo hhi
    exact ⟨harg0, harg0, harg0, fun _ => harg0⟩

end Machine

end Sys2Proof

/-! PROOFS. The Bit Order Policy and the engine at the bytes: the masks, both forms of the funnel, and the in-place walk
(rules R130 to R143). -/

namespace Sys2Proof.Machine

/-! ### The masks -/

/-- The bits of `UNREAD(dir, p)` are those at the logical indexes from `8 - p` up (rule R134). -/
theorem bitAt_unread {dir : Direction} {k : Nat} (hk : k < 8) (p : Nat) :
    bitAt dir (unread dir p) k = decide (8 - p ≤ k) := by
  have hnot : unread dir p = ~~~(fill dir (8 - p)) := BitVec.allOnes_and
  rw [hnot, bitAt_not hk, bitAt_fill hk, ← decide_not, decide_eq_decide, Nat.not_lt]

/-- Settles O16: a position is that of one logical index, where each mask's bit is known. -/
theorem policyAndMasks : Obligations.PolicyAndMasks := by
  refine fun dir k => ⟨fun hk => ?_, pos_of_ge dir, fun p f hp _ => ?_⟩
  · cases dir <;> exact pos_of_lt _ hk
  · obtain ⟨hk, rfl⟩ := pos_eq_some_iff.1 hp
    exact ⟨bitAt_fill hk f, bitAt_unread hk f⟩

/-! ### The funnel by physical position -/

section
variable {s j : Nat} {prev cur : Byte}

/-- Under MSB_FIRST the result is `prev[s-1:0]` on top of `cur[7:s]` (rule R139). -/
theorem getLsbD_funnel_msbFirst (hs : s ≤ 8) (hj : j < 8) :
    (funnel .msbFirst s prev cur).getLsbD j =
      if 8 - s ≤ j then prev.getLsbD (j - (8 - s)) else cur.getLsbD (j + s) := by
  have hbit := bitAt_funnel (dir := .msbFirst) (v := prev) (w := cur) (show 7 - j < 8 by omega) hs
  simp only [bitAt, nextFree, show 7 - (7 - j) = j by omega] at hbit
  rw [hbit]
  by_cases h : 8 - s ≤ j
  · rw [if_pos h, if_pos (by omega), show 7 - (8 - s + (7 - j)) = j - (8 - s) by omega]
  · rw [if_neg h, if_neg (by omega), show 7 - (7 - j - s) = j + s by omega]

/-- Under LSB_FIRST it is `prev[7:8-s]` below `cur[7-s:0]` (rule R139). -/
theorem getLsbD_funnel_lsbFirst (hs : s ≤ 8) (hj : j < 8) :
    (funnel .lsbFirst s prev cur).getLsbD j = if j < s then prev.getLsbD (j + (8 - s)) else cur.getLsbD (j - s) := by
  rw [Nat.add_comm]
  exact bitAt_funnel (dir := .lsbFirst) hj hs

/-- The form of rule R139 that shifts the new byte right. -/
theorem funnel_msbFirst_eq_or (hs : s ≤ 8) : funnel .msbFirst s prev cur = (prev <<< (8 - s)) ||| (cur >>> s) := by
  refine BitVec.eq_of_getLsbD_eq fun j hj => ?_
  rw [getLsbD_funnel_msbFirst hs hj, BitVec.getLsbD_or, BitVec.getLsbD_shiftLeft, BitVec.getLsbD_ushiftRight]
  by_cases h : 8 - s ≤ j
  · rw [if_pos h, BitVec.getLsbD_of_ge cur (s + j) (by omega)]
    simp [hj, h]
  · simp [h, Nat.not_le.1 h, Nat.add_comm]

/-- The form of rule R139 that shifts the new byte left. -/
theorem funnel_lsbFirst_eq_or (hs : s ≤ 8) : funnel .lsbFirst s prev cur = (prev >>> (8 - s)) ||| (cur <<< s) := by
  refine BitVec.eq_of_getLsbD_eq fun j hj => ?_
  rw [getLsbD_funnel_lsbFirst hs hj, BitVec.getLsbD_or, BitVec.getLsbD_shiftLeft, BitVec.getLsbD_ushiftRight]
  by_cases h : j < s
  · simp [h, Nat.add_comm]
  · rw [if_neg h, BitVec.getLsbD_of_ge prev (8 - s + j) (by omega)]
    simp [hj, h]

end

/-- Settles O17: the two forms agree bit by bit. -/
theorem funnelJoinsTwoBytes : Obligations.FunnelJoinsTwoBytes := by
  intro s prev cur _ hs7
  have hs : s ≤ 8 := by omega
  exact ⟨funnel_msbFirst_eq_or hs, funnel_lsbFirst_eq_or hs, fun j hj =>
    ⟨getLsbD_funnel_msbFirst hs hj, getLsbD_funnel_lsbFirst hs hj⟩⟩

/-! ### The engine -/

/-- Settles O18: by induction on the input, each funnel takes the carried bits first and leaves the last bits of its byte. -/
theorem engineKeepsBitStream : Obligations.EngineKeepsBitStream := by
  refine ⟨fun dir s c c' src out h => ?_, fun dir f w c _ hf7 => ?_⟩
  · obtain ⟨⟨_, hs7⟩, rfl, rfl⟩ := splice_eq_some_iff.1 h
    exact splice_keeps_stream (by omega) c src
  · exact ⟨carryBits_toRaw (by omega) w, byteBits_fromRaw_take (by omega) c⟩

/-- What a downward in-place walk holds when the bytes from index `i` up are done: the input below `i`, the output above
(rule R141). -/
def partlySpliced (dir : Direction) (s : Nat) (c : Byte) (src : List Byte) (i : Nat) : List Byte :=
  src.take i ++ (spliceOut dir s c src).drop i

section
variable (dir : Direction) (s : Nat) (c : Byte) (src : List Byte)

theorem partlySpliced_length : partlySpliced dir s c src src.length = src := by simp [partlySpliced]

/-- A store of the downward walk still finds the input at its own index and the one below. -/
theorem partlySpliced_getD {i k : Nat} (hk : k < i) (hi : i ≤ src.length) :
    (partlySpliced dir s c src i).getD k 0x00#8 = src.getD k 0x00#8 := by
  rw [partlySpliced, List.getD_append _ _ _ _ (by simp; omega)]
  simp [hk]

variable {src} in
/-- One store of the downward walk finishes one more byte. -/
theorem inPlaceStore_partlySpliced {i : Nat} (hi : i < src.length) :
    inPlaceStore dir s c (partlySpliced dir s c src (i + 1)) i = partlySpliced dir s c src i := by
  have hprev : (if i = 0 then c else (partlySpliced dir s c src (i + 1)).getD (i - 1) 0x00#8) =
      if i = 0 then c else src.getD (i - 1) 0x00#8 := by
    rw [partlySpliced_getD dir s c src (by omega) hi]
  have hout : i < (spliceOut dir s c src).length := by simpa using hi
  rw [inPlaceStore, hprev, partlySpliced_getD dir s c src (Nat.lt_succ_self i) hi, List.getD_eq_getElem _ _ hi,
    ← spliceOut_getElem dir s c src i hi, partlySpliced, partlySpliced, List.drop_eq_getElem_cons hout,
    ← List.take_concat_get' _ _ hi, List.append_assoc, List.set_append_right _ _ (by simp)]
  simp [hi.le]

/-- A downward walk over the indexes below `i` does the bytes still to be done. -/
theorem foldl_inPlaceStore_partlySpliced {i : Nat} (hi : i ≤ src.length) :
    (List.range i).reverse.foldl (inPlaceStore dir s c) (partlySpliced dir s c src i) = spliceOut dir s c src := by
  induction i with
  | zero => rfl
  | succ i ih =>
    rw [List.range_succ, List.reverse_append, List.reverse_singleton, List.singleton_append, List.foldl_cons,
      inPlaceStore_partlySpliced dir s c hi, ih (Nat.le_of_succ_le hi)]

/-- Walking downward, an in-place engine computes the output of the engine (rules R141, R264). -/
theorem inPlaceDescending_eq_spliceOut : inPlaceDescending dir s c src = spliceOut dir s c src := by
  have hwalk := foldl_inPlaceStore_partlySpliced dir s c src le_rfl
  rwa [partlySpliced_length] at hwalk

end

/-- The new carry is the last input byte, the old carry when there is none (rule R142). -/
theorem spliceCarry_eq_ite (c : Byte) (src : List Byte) :
    spliceCarry c src = if src = [] then c else src.getD (src.length - 1) 0x00#8 := by
  rcases src.eq_nil_or_concat with rfl | ⟨init, b, rfl⟩
  · rfl
  · simp [spliceCarry]

/-- Walking upward, the second store finds the first one's output byte where its input was. -/
theorem inPlaceAscending_ne_spliceOut (dir : Direction) :
    inPlaceAscending dir 3 0x2D#8 [0xDD#8, 0xB5#8] ≠ spliceOut dir 3 0x2D#8 [0xDD#8, 0xB5#8] := by
  cases dir <;> decide

/-- Settles O20: a downward walk overwrites only what no later store needs; an upward one is shown wrong on two bytes. -/
theorem inPlaceEngineWalksDown : Obligations.InPlaceEngineWalksDown := by
  refine ⟨fun dir s c src => ?_, fun dir s c c' src out h => ?_, fun dir =>
    ⟨3, 0x2D#8, _, _, _, splice_eq_some_iff.2 ⟨by decide, rfl, rfl⟩, inPlaceAscending_ne_spliceOut dir⟩⟩
  · rw [← not_iff_not, ← splice_eq_none_iff (dir := dir) (c := c) (src := src), Option.eq_none_iff_forall_ne_some,
      not_exists]
  · obtain ⟨_, rfl, rfl⟩ := splice_eq_some_iff.1 h
    refine ⟨inPlaceDescending_eq_spliceOut dir s c src, spliceOut_length dir s c src, fun i hi => ?_,
      spliceCarry_eq_ite c src⟩
    rw [List.getD_eq_getElem _ _ (by simpa using hi), List.getD_eq_getElem src _ hi, spliceOut_getElem dir s c src i hi]

end Sys2Proof.Machine

/-! PROOFS. The read path: READBIT, READBYTE and READ as equations of what the downstream answers, and the rules read off
them. -/

namespace Sys2Proof.Machine

section
variable {s : State} {d : Downstream} {x : Word64}

/-! ### The shape of a completed read command -/

/-- A completion with OK as the statements write it (rules R20, R55). -/
theorem finish_ok_eq_okAfter (r : Word64) (eos : Bool) : s.finish .ok r eos = okAfter s r eos := by
  rw [State.finish, Status.completed_ok, okAfter]

/-- With `p` bits unread the next one stands at logical index `8 - p` (rules R35, R151). -/
theorem nextFree_eq_nextUnread (dir : Direction) {p : Nat} (hp : 1 ≤ p) (hp8 : p ≤ 8) :
    nextFree dir (8 - p) = nextUnread dir p := by
  cases dir with
  | msbFirst =>
    dsimp only [nextFree, nextUnread]
    omega
  | lsbFirst => rfl

/-- READBIT's next state as its rule gives it (rule R151). -/
theorem afterBit_eq_okAfter (v : Byte) {p : Nat} (hp : 1 ≤ p) (hp8 : p ≤ 8) :
    afterBit v p s = okAfter { s with rdVal := v, rdCnt := BitVec.ofNat 4 (p - 1) }
      (bitResult v (nextUnread s.dir p)) false := by
  have hres := afterBit_res v p s
  rw [bitAt, nextFree_eq_nextUnread s.dir hp hp8, afterBit, State.finish_res] at hres
  rw [afterBit, hres, finish_ok_eq_okAfter]
  rfl

/-! ### A read command that is answered completes -/

/-- A command of one request completes when the request is answered and the counts are in range. -/
theorem exec_completes_of_answered {i : Instr} (hs : s.countsInRange) (hi : i ≠ .flush)
    (hr : ∀ q, firstRequest i s = some q → s.ds.respond q ≠ none) : ∃ t, exec i s = .next t := by
  have hopen := exec_opening i s
  generalize exec i s = r at hopen
  cases hopen with
  | silent _ _ => exact ⟨_, rfl⟩
  | @asks q k hq hk =>
    obtain ⟨⟨a, d⟩, had⟩ := Option.ne_none_iff_exists'.1 (hr q hq)
    have hcont := hk (s.heard q a d) a
    rw [ask_answered k had]
    generalize k _ _ = r at hcont
    cases hcont with
    | failed _ _ _ | completed _ => exact ⟨_, rfl⟩
    | flushed hflush _ _ => exact absurd hflush hi
    | stopped hstop => exact absurd hs hstop
  | stopped hstop => exact absurd hs hstop

/-- For a read command the bound on WR_CNT is not needed: it does not see the write accumulator (rule R41). -/
theorem readCommand_completes {i : Instr} (hi : isReadCommand i = true) (h7 : s.rdCnt.toNat ≤ 7)
    (hr : ∀ q, firstRequest i s = some q → s.ds.respond q ≠ none) : ∃ t, exec i s = .next t := by
  have hunseen : exec i (s.setWr 0x00#8 0#4) = mapNext (·.setWr 0x00#8 0#4) (exec i s) :=
    accumulatorsIndependent.1 i s _ _ fun hmem => by fin_cases hmem <;> cases hi
  have hq : firstRequest i (s.setWr 0x00#8 0#4) = firstRequest i s := by
    cases i with
    | readbit | readbyte | read => rfl
    | writebit _ | writebiti | write | flush | seek _ | getpos | setpos | getlen | setlen | getcaps => cases hi
  obtain ⟨t, ht⟩ := exec_completes_of_answered (i := i) (s := s.setWr 0x00#8 0#4) ⟨h7, by simp⟩
    (by rintro rfl; cases hi) (by rwa [hq])
  obtain ⟨u, hu, -⟩ := exists_of_mapNext_eq_next (hunseen.symm.trans ht)
  exact ⟨u, hu⟩

/-! ### READBYTE and READ, answer by answer -/

/-- READBYTE returns what the engine makes of the byte; when aligned, that is the byte (rule R152). -/
theorem exec_readbyte_of_byte {v : Byte} (h7 : s.rdCnt.toNat ≤ 7) (hr : s.ds.respond (.read 1) = some (.ok [v] x, d)) :
    exec .readbyte s = .next (okAfter
      { afterRequest s (.read 1) (.ok [v] x) d with rdVal := if s.rdCnt = 0#4 then s.rdVal else v }
      ((funnel s.dir s.rdCnt.toNat s.rdVal v).setWidth 64) false) := by
  obtain ⟨t, ht⟩ := readCommand_completes (i := .readbyte) rfl h7 (by rintro _ ⟨⟩; simp [hr])
  rw [ht]
  cases execReadbyte_run ht with
  | answered hr' =>
    cases hr.symm.trans hr'
    rw [finish_ok_eq_okAfter]
    rfl
  | sentinel hr' | failed hr' => cases hr.symm.trans hr'

theorem exec_readbyte_of_none (hr : s.ds.respond (.read 1) = some (.ok [] x, d)) :
    exec .readbyte s = .next (okAfter (afterRequest s (.read 1) (.ok [] x) d) Config.eosSentinel true) := by
  rw [exec, execReadbyte, request_answered _ hr, finish_ok_eq_okAfter]
  rfl

theorem exec_readbyte_of_failure {e : Word32} (hr : s.ds.respond (.read 1) = some (.err e, d)) :
    exec .readbyte s = .next (failAfter { afterRequest s (.read 1) (.err e) d with ioerr := e } .ioError) := by
  rw [exec, execReadbyte, request_failed _ hr, failIo_eq_failAfter]
  rfl

/-- An answered READ stores what the engine makes of the bytes; when aligned, that is the bytes (rules R155, R156). -/
theorem exec_read_of_bytes {bytes : List Byte} (h7 : s.rdCnt.toNat ≤ 7) (ho : s.outOfBuf = false) (hn : s.count ≠ 0)
    (hr : s.ds.respond (.read s.count) = some (.ok bytes x, d)) :
    exec .read s = .next (okAfter { afterRequest s (.read s.count) (.ok bytes x) d with
      buf := Memory.write s.buf s.base (spliceOut s.dir s.rdCnt.toNat s.rdVal bytes)
      rdVal := if s.rdCnt = 0#4 then s.rdVal else bytes.getLastD s.rdVal } (BitVec.ofNat 64 bytes.length) false) := by
  obtain ⟨t, ht⟩ := readCommand_completes (i := .read) rfl h7 (by simp [firstRequest, ho, hn, hr])
  rw [ht]
  cases execRead_run ht with
  | answered _ hr' =>
    cases hr.symm.trans hr'
    rw [finish_ok_eq_okAfter]
    rfl
  | outOfRange ho' => simp [ho] at ho'
  | nothing _ hn' => exact absurd hn' hn
  | failed _ _ hr' => cases hr.symm.trans hr'

/-- A READ that failed leaves free bytes in its range (rule R158, log entry 7). -/
theorem exec_read_of_failure {e : Word32} (ho : s.outOfBuf = false) (hn : s.count ≠ 0)
    (hr : s.ds.respond (.read s.count) = some (.err e, d)) :
    exec .read s = .next (failAfter { afterRequest s (.read s.count) (.err e) d with
      ioerr := e
      buf := Memory.write s.buf s.base (s.freeBytes s.count)
      draws := s.draws + s.count } .ioError) := by
  have hask : exec .read s = .next (readFailed e (s.heard (.read s.count) (.err e) d)) := by
    simp [exec, execRead, ho, hn, ask_answered _ hr]
  rw [hask, readFailed, failIo_eq_failAfter]
  rfl

theorem outOfBuf_eq_false_iff : s.outOfBuf = false ↔ s.arg1.toNat + s.arg0.toNat ≤ s.bufSize := by
  simp [State.outOfBuf, State.base, State.count]

/-- What READ stores, byte by byte: the bytes themselves when aligned, else their funnels (rules R138, R155, R156). -/
theorem spliceOut_getD_ite (dir : Direction) (c : Count) (prev : Byte) (bytes : List Byte) {i : Nat} (hi : i < bytes.length) :
    (spliceOut dir c.toNat prev bytes).getD i 0x00#8 =
      if c = 0#4 then bytes.getD i 0x00#8
      else funnel dir c.toNat (if i = 0 then prev else bytes.getD (i - 1) 0x00#8) (bytes.getD i 0x00#8) := by
  split
  · next h0 => simp [h0]
  · rw [List.getD_eq_getElem _ _ (by simpa using hi), spliceOut_getElem _ _ _ _ _ hi, List.getD_eq_getElem bytes _ hi]

end

/-! ### The rules -/

/-- Settles O21: the next bit of the pending byte, or of the byte that was asked for. -/
theorem readbitRule : Obligations.ReadbitRule := by
  refine ⟨decode_encode (i := .readbit) rfl, fun s => ⟨fun h0 h7 => ?_, fun h0 a d hr => ?_⟩⟩
  · have hp := toNat_pos_of_ne_zero h0
    have hcnt : BitVec.ofNat 4 (s.rdCnt.toNat - 1) = s.rdCnt - 1#4 := by bv_omega
    rw [← hcnt]
    exact (if_neg h0).trans <|
      (deliverBit_eq hp (by omega)).trans (congrArg _ (afterBit_eq_okAfter s.rdVal hp (by omega)))
  · obtain ⟨t, ht⟩ := readCommand_completes (i := .readbit) (s := s) rfl (by simp [h0]) (by simp [firstRequest, h0, hr])
    rw [ht]
    cases execReadbit_run ht with
    | pending h0' _ => exact absurd h0 h0'
    | fetched _ hr' =>
      cases hr.symm.trans hr'
      refine ⟨?_, nofun, nofun⟩
      rintro _ _ ⟨⟩
      rw [afterBit_eq_okAfter _ (by omega) le_rfl]
      rfl
    | sentinel _ hr' =>
      cases hr.symm.trans hr'
      refine ⟨nofun, ?_, nofun⟩
      rintro _ ⟨⟩
      rw [finish_ok_eq_okAfter]
      rfl
    | failed _ hr' =>
      cases hr.symm.trans hr'
      refine ⟨nofun, nofun, ?_⟩
      rintro _ ⟨⟩
      rw [failIo_eq_failAfter]
      rfl

/-- Settles O22: READBYTE answer by answer; the engine passes the byte through when aligned. -/
theorem readbyteRule : Obligations.ReadbyteRule := by
  refine ⟨decode_encode (i := .readbyte) rfl, fun s a d h7 hr => ⟨?_, ?_, ?_, ?_⟩⟩
  · rintro v x rfl h0
    rw [exec_readbyte_of_byte h7 hr, if_pos h0, h0]
    simp [afterRequest]
  · rintro v x rfl h0
    rw [exec_readbyte_of_byte h7 hr, if_neg h0]
  · rintro x rfl
    exact exec_readbyte_of_none hr
  · rintro e rfl
    exact exec_readbyte_of_failure hr

/-- Settles O23: READ answer by answer; it writes its output from base on and leaves the rest of BUF. -/
theorem readRule : Obligations.ReadRule := by
  refine ⟨decode_encode (i := .read) rfl, fun s hm h7 => ⟨fun hover => ?_, fun hfits => ?_⟩⟩
  · exact (if_pos (decide_eq_true hover)).trans (congrArg _ (fail_eq_failAfter (by decide)))
  · have ho := outOfBuf_eq_false_iff.2 hfits
    refine ⟨fun h0 => ?_, fun h0 a d hr => ?_⟩
    · have hn : s.count = 0 := by simp [State.count, h0]
      simp [exec, execRead, ho, hn, finish_ok_eq_okAfter]
    · have hn : s.count ≠ 0 := by simpa [State.count, BitVec.toNat_eq] using h0
      refine ⟨?_, ?_⟩
      · rintro bytes x rfl
        refine ⟨_, exec_read_of_bytes h7 ho hn hr, rfl, fun i hi => ?_, fun y hy => ?_⟩
        · rw [← spliceOut_getD_ite _ _ _ _ hi]
          refine (Memory.get_write hm _ _ _).trans ?_
          rw [State.base, spliceOut_length, if_pos (by omega), Nat.add_sub_cancel_left]
        · exact Memory.get_write_outside hm (spliceOut_length ..).le hy
      · rintro e rfl
        exact ⟨_, exec_read_of_failure ho hn hr, rfl, fun y hy =>
          Memory.get_write_outside hm (s.freeBytes_length _).le hy⟩

/-- Settles O24: the two commands on each answer to a read of one byte. -/
theorem readbyteIsReadOfOne : Obligations.ReadbyteIsReadOfOne := by
  intro s a d hm h7 harg hfits hr
  have hcount : s.count = 1 := by simp [State.count, harg]
  have hn : s.count ≠ 0 := by omega
  have ho : s.outOfBuf = false := outOfBuf_eq_false_iff.2 (by simpa [harg] using hfits)
  have hkept : ∀ out : List Byte, out.length = 1 → ∀ y, y ≠ s.arg1.toNat →
      Memory.get (Memory.write s.buf s.base out) y = Memory.get s.buf y := fun out hlen y hy =>
    Memory.get_write_outside hm hlen.le (by rw [State.base]; omega)
  have hr' : s.ds.respond (.read s.count) = some (a, d) := by rwa [hcount]
  rcases a with e | ⟨_ | ⟨v, rest⟩, x⟩
  · have hread := exec_read_of_failure ho hn hr'
    rw [hcount] at hread
    exact ⟨_, _, exec_readbyte_of_failure hr, hread, rfl, rfl, rfl, rfl, rfl, rfl, hkept _ (s.freeBytes_length 1),
      fun _ => ⟨rfl, rfl⟩, nofun, nofun, nofun, rfl⟩
  · have hread := exec_read_of_bytes h7 ho hn hr'
    rw [hcount, List.getLastD_nil, ite_self] at hread
    exact ⟨_, _, exec_readbyte_of_none hr, hread, rfl, rfl, rfl, rfl, rfl, rfl, fun _ _ => rfl, nofun, nofun,
      fun _ _ => ⟨rfl, rfl, rfl⟩, fun _ => .inl rfl, rfl⟩
  · obtain rfl : rest = [] := by simpa using respond_read_length_le hr
    have hread := exec_read_of_bytes h7 ho hn hr'
    rw [hcount] at hread
    refine ⟨_, _, exec_readbyte_of_byte h7 hr, hread, rfl, rfl, rfl, rfl, rfl, rfl, hkept _ (spliceOut_length ..),
      fun hne => absurd rfl hne, fun _ _ => ⟨?_, rfl⟩, nofun, fun _ => .inr rfl, rfl⟩
    have hstored : Memory.get (Memory.write s.buf s.base (spliceOut s.dir s.rdCnt.toNat s.rdVal [v])) s.base =
        funnel s.dir s.rdCnt.toNat s.rdVal v := by
      simp [Memory.get_write hm]
    exact congrArg (BitVec.setWidth 64) hstored.symm

/-- Settles O41: of the ways the read commands run, those that failed write no register of the accumulator. -/
theorem failedReadKeepsAccumulator : Obligations.FailedReadKeepsAccumulator := by
  intro i s t hi h hfail
  suffices hacc : t.rdVal = s.rdVal ∧ t.rdCnt = s.rdCnt from ⟨hacc.1, hacc.2, fun hne => exec_buf_eq hne h⟩
  cases i with
  | readbit =>
    cases execReadbit_run h with
    | failed _ _ => exact ⟨rfl, rfl⟩
    | pending _ _ | fetched _ _ | sentinel _ _ => exact absurd rfl hfail
  | readbyte =>
    cases execReadbyte_run h with
    | failed _ => exact ⟨rfl, rfl⟩
    | answered _ | sentinel _ => exact absurd rfl hfail
  | read =>
    cases execRead_run h with
    | outOfRange _ | failed _ _ _ => exact ⟨rfl, rfl⟩
    | nothing _ _ | answered _ _ => exact absurd rfl hfail
  | writebit _ | writebiti | write | flush | seek _ | getpos | setpos | getlen | setlen | getcaps => cases hi

end Sys2Proof.Machine

/-! PROOFS. The write path: WRITEBIT, WRITEBITI and WRITE case by case, the rules read off them, and what a failure leaves of
the write accumulator (rules R170 to R175). -/

namespace Sys2Proof.Machine

section
variable {s t : State} {b : Bool} {a : Answer} {d : Downstream}

/-! ### WRITEBIT and WRITEBITI, case by case -/

/-- The next bit is OR'd into the byte being assembled (rules R133, R170). -/
theorem withBit_eq_or (s : State) (b : Bool) :
    s.withBit b = (if s.wrCnt = 0#4 then 0x00#8 else s.wrVal) |||
      (if b then 0x01#8 <<< nextFree s.dir s.wrCnt.toNat else 0x00#8) := by
  cases b with
  | false => exact (BitVec.or_zero (x := s.assembling)).symm
  | true => rfl

/-- WRITEBIT of one of the first seven bits (rule R170). -/
theorem exec_writebit_of_lt_seven (h7 : s.wrCnt.toNat < 7) :
    exec (.writebit b) s = .next (okAfter { s with wrVal := s.withBit b, wrCnt := s.wrCnt + 1#4 } 0#64 false) := by
  rw [exec, execWritebit, writeBitBody, pos_eq_some_iff.2 ⟨by omega, rfl⟩]
  exact (if_neg (by omega)).trans (congrArg _ (finish_ok_eq_okAfter ..))

/-- WRITEBIT of the eighth bit sends the full byte (rule R170). -/
theorem exec_writebit_of_seven (h7 : s.wrCnt.toNat = 7) :
    exec (.writebit b) s =
      request (.write [s.withBit b]) s fun t _ _ => .next ((t.setWr 0x00#8 0#4).finish .ok 0#64 false) := by
  rw [exec, execWritebit, writeBitBody, pos_eq_some_iff.2 ⟨by omega, rfl⟩]
  exact if_pos (by omega)

theorem exec_writebit_of_accepted {bytes : List Byte} {x : Word64} (h7 : s.wrCnt.toNat = 7)
    (hr : s.ds.respond (.write [s.withBit b]) = some (.ok bytes x, d)) :
    exec (.writebit b) s = .next (okAfter { afterRequest s (.write [s.withBit b]) (.ok bytes x) d with
      wrVal := 0x00#8, wrCnt := 0#4 } 0#64 false) := by
  rw [exec_writebit_of_seven h7, request_answered _ hr, finish_ok_eq_okAfter]
  rfl

theorem signedArg_eq_zero_iff : s.signedArg = 0 ↔ s.arg0 = 0#64 := BitVec.toInt_inj (y := 0#64)

/-- With 0 in ARG0, WRITEBITI is WRITEBIT 0 (rule R171). -/
theorem exec_writebiti_of_zero (h0 : s.arg0 = 0#64) : exec .writebiti s = exec (.writebit false) s :=
  if_neg (not_not.2 (signedArg_eq_zero_iff.2 h0))

/-! ### WRITE, answer by answer -/

/-- With the count in range WRITE sends the engine's output, and completes when that is answered (rules R172, R173). -/
theorem execWrite_completes (h7 : s.wrCnt.toNat ≤ 7) (ho : s.outOfBuf = false)
    (hr : s.ds.respond (.write (spliceOut s.dir s.wrCnt.toNat s.rawCarry (Memory.read s.buf s.base s.count))) = some (a, d)) :
    ∃ t, execWrite s = .next t := by
  rw [execWrite, if_neg (by simp [ho])]
  dsimp only
  split
  · next h0 =>
    rw [show s.wrCnt.toNat = 0 by simp [h0], spliceOut_zero] at hr
    exact request_completes hr fun _ _ _ => ⟨_, rfl⟩
  · next h0 =>
    rw [writeUnaligned, splice, if_pos ⟨toNat_pos_of_ne_zero h0, h7⟩]
    exact request_completes hr fun _ _ _ => ⟨_, rfl⟩

theorem Memory.read_getD (m : List Host.Cell) (x : Nat) {n i : Nat} (hi : i < n) :
    (Memory.read m x n).getD i 0x00#8 = Memory.get m (x + i) := by
  rw [List.getD_eq_getElem _ _ (by simpa using hi), Memory.read_getElem]

/-- What WRITE sends, byte by byte: BUF's own bytes when aligned, else their funnels (rules R138, R172, R173). -/
theorem spliceOut_read_getD {i : Nat} (hi : i < s.count) :
    (spliceOut s.dir s.wrCnt.toNat s.rawCarry (Memory.read s.buf s.base s.count)).getD i 0x00#8 =
      if s.wrCnt = 0#4 then Memory.get s.buf (s.base + i)
      else funnel s.dir s.wrCnt.toNat (if i = 0 then s.rawCarry else Memory.get s.buf (s.base + i - 1))
        (Memory.get s.buf (s.base + i)) := by
  rw [spliceOut_getD_ite _ _ _ _ (by simpa using hi), Memory.read_getD _ _ hi]
  by_cases hz : i = 0
  · simp [hz]
  · rw [Memory.read_getD _ _ (show i - 1 < s.count by omega), Nat.add_sub_assoc (by omega)]

/-- The carry byte that WRITE keeps: BUF's last byte of the range, the old carry when `n = 0` (rules R138, R173). -/
theorem spliceCarry_read (s : State) :
    spliceCarry s.rawCarry (Memory.read s.buf s.base s.count) =
      if s.arg0 = 0#64 then s.rawCarry else Memory.get s.buf (s.base + s.count - 1) := by
  have hnil : Memory.read s.buf s.base s.count = [] ↔ s.arg0 = 0#64 := by
    rw [← List.length_eq_zero_iff, Memory.read_length, State.count, BitVec.toNat_eq]
    rfl
  rw [spliceCarry_eq_ite]
  simp only [hnil, Memory.read_length]
  split
  · rfl
  · next hn =>
    have hpos : 1 ≤ s.count := by
      rw [State.count]
      bv_omega
    rw [Memory.read_getD _ _ (by omega), Nat.add_sub_assoc hpos]

/-! ### What a failure leaves of the write accumulator -/

/-- The write accumulator is as it was. -/
abbrev sameWrite (s t : State) : Prop := t.wrVal = s.wrVal ∧ t.wrCnt = s.wrCnt

theorem WritebitRun.sameWrite_of_failed (h : WritebitRun b s t) (hfail : t.status.code ≠ .ok) : sameWrite s t := by
  cases h with
  | failed _ _ => exact ⟨rfl, rfl⟩
  | placed _ | sent _ _ => exact absurd rfl hfail

theorem WriteRun.sameWrite_of_failed (h : WriteRun s t) (hfail : t.status.code ≠ .ok) : sameWrite s t := by
  cases h with
  | outOfRange _ => exact ⟨rfl, rfl⟩
  | sent _ hsend =>
    cases hsend with
    | failed _ => exact ⟨rfl, rfl⟩
    | accepted _ _ => exact absurd rfl hfail

/-- FLUSH empties the accumulator only behind an accepted byte (rule R191). -/
theorem FlushRun.sameWrite_of_first_failed {q : Request} {e : Word32} (h : FlushRun s t)
    (hq : firstRequest .flush s = some q) (hr : s.ds.respond q = some (.err e, d)) : sameWrite s t := by
  cases h with
  | empty _ hpass => cases hpass <;> exact ⟨rfl, rfl⟩
  | failed _ _ => exact ⟨rfl, rfl⟩
  | sent h0 hr' _ =>
    obtain rfl : .write [s.flushByte] = q := Option.some.inj ((if_neg h0).symm.trans hq)
    cases hr.symm.trans hr'

end

/-! ### The rules -/

/-- Settles O26: a bit is placed behind the others, or fills the byte that is sent. -/
theorem writebitRule : Obligations.WritebitRule := by
  refine ⟨decode_encode (i := .writebit false) rfl, decode_encode (i := .writebit true) rfl, fun s b w _ hw => ?_⟩
  obtain rfl : w = s.withBit b := hw.trans (withBit_eq_or s b).symm
  refine ⟨fun h7 => ?_, fun h7 a d hr => ⟨?_, ?_⟩⟩
  · exact exec_writebit_of_lt_seven h7
  · rintro bytes x rfl
    exact exec_writebit_of_accepted h7 hr
  · rintro e rfl
    rw [exec_writebit_of_seven h7, request_failed _ hr, failIo_eq_failAfter]
    rfl

/-- Settles O27: a value other than 0 is rejected, and with 0 the cases are those of WRITEBIT 0. -/
theorem writebitiRule : Obligations.WritebitiRule := by
  refine ⟨decode_encode (i := .writebiti) rfl, fun s => ⟨fun hne => ?_, exec_writebiti_of_zero, fun h0 h7 => ?_,
    fun h0 h7 bytes x d hr => ?_⟩⟩
  · exact (if_pos (mt signedArg_eq_zero_iff.1 hne)).trans (congrArg _ (fail_eq_failAfter (by decide)))
  · exact (exec_writebiti_of_zero h0).trans (exec_writebit_of_lt_seven h7)
  · have hw : s.wrVal = s.withBit false := (State.assembling_of_seven h7).symm
    rw [hw] at hr ⊢
    exact (exec_writebiti_of_zero h0).trans (exec_writebit_of_accepted h7 hr)

/-- Settles O28: WRITE sends the engine's output, which the bytes of the statement are, one by one. -/
theorem writeRule : Obligations.WriteRule := by
  refine ⟨decode_encode (i := .write) rfl, fun s h7 => ⟨fun hover => ?_, fun hfits out a d hlen hr hbytes => ?_⟩⟩
  · exact (if_pos (decide_eq_true hover)).trans (congrArg _ (fail_eq_failAfter (by decide)))
  have ho := outOfBuf_eq_false_iff.2 hfits
  obtain rfl : out = spliceOut s.dir s.wrCnt.toNat s.rawCarry (Memory.read s.buf s.base s.count) := by
    refine List.ext_getElem (by simpa [State.count] using hlen) fun i hi hi' => ?_
    have hin : i < s.count := by simpa using hi'
    rw [← List.getD_eq_getElem _ 0x00#8 hi, ← List.getD_eq_getElem _ 0x00#8 hi', spliceOut_read_getD hin]
    exact hbytes i hin
  obtain ⟨t, ht⟩ := execWrite_completes h7 ho hr
  rw [exec, ht]
  cases execWrite_run ht with
  | outOfRange ho' => simp [ho] at ho'
  | sent _ hsend =>
    cases hsend with
    | accepted _ hr' =>
      cases hr.symm.trans hr'
      refine ⟨fun _ _ _ => ?_, nofun⟩
      rw [spliceCarry_read, finish_ok_eq_okAfter]
      rfl
    | failed hr' =>
      cases hr.symm.trans hr'
      refine ⟨nofun, ?_⟩
      rintro _ ⟨⟩
      rw [failIo_eq_failAfter]
      rfl

/-- Settles O42: of the ways these commands run, those that failed at their first request write no register of the
accumulator. -/
theorem failedWriteKeepsAccumulator : Obligations.FailedWriteKeepsAccumulator := by
  rintro i s t h hfail (hi | ⟨rfl, q, e, d, hq, hr⟩)
  · cases i with
    | writebit b => exact (writeBitBody_run h).sameWrite_of_failed hfail
    | writebiti =>
      rcases execWritebiti_run h with rfl | hrun
      · exact ⟨rfl, rfl⟩
      · exact hrun.sameWrite_of_failed hfail
    | write => exact (execWrite_run h).sameWrite_of_failed hfail
    | readbit | readbyte | read | flush | seek _ | getpos | setpos | getlen | setlen | getcaps => cases hi
  · exact (execFlush_run h).sameWrite_of_first_failed hq hr

end Sys2Proof.Machine

/-! PROOFS. The account of bits over a session of write commands since a reset (rule R177). -/

namespace Sys2Proof.Machine

/-! ### The record of requests -/

section
variable {s t u : State} {i : Instr}

/-- The requests of two stretches of a run are those of the whole run. -/
theorem issuedSince_trans (hst : s.dsLog <+: t.dsLog) (htu : t.dsLog <+: u.dsLog) :
    issuedSince s u = issuedSince s t ++ issuedSince t u := by
  obtain ⟨l, hl⟩ := hst
  obtain ⟨l', hl'⟩ := htu
  rw [issuedSince_of_append hl.symm, issuedSince_of_append hl'.symm,
    issuedSince_of_append (by rw [← hl', ← hl, List.append_assoc])]

theorem acceptedBytes_append (l l' : List (Request × Answer)) :
    acceptedBytes (l ++ l') = acceptedBytes l ++ acceptedBytes l' := by
  induction l with
  | nil => rfl
  | cons p rest ih =>
    obtain ⟨q, a⟩ := p
    cases q with
    | write bytes => cases a <;> simp [acceptedBytes, ih]
    | read _ | flush | seek _ _ | getPos | setPos _ | getLen | setLen _ => exact ih

/-- A command other than FLUSH issues its first request at most. -/
theorem exec_issues_first (hi : i ≠ .flush) (h : exec i s = .next t) :
    issuedSince s t = [] ∨ ∃ q a, firstRequest i s = some q ∧ issuedSince s t = [(q, a)] := by
  have hopen := exec_opening i s
  rw [h] at hopen
  generalize hr : Host.Outcome.next t = r at hopen
  cases hopen with
  | silent _ hlog =>
    cases hr
    exact .inl (issuedSince_of_append (by simp [hlog]))
  | @asks q k hq hk =>
    obtain ⟨a, d, -, hnext⟩ := ask_next hr.symm
    have hcont := hk (s.heard q a d) a
    rw [hnext] at hcont
    rcases hcont.dsLog with hlog | ⟨hflush, -⟩
    · exact .inr ⟨q, a, hq, issuedSince_of_append hlog⟩
    · exact absurd hflush hi
  | stopped _ => cases hr

/-- Only the write commands and FLUSH write to the downstream (rules R80, R169). -/
theorem firstRequest_ne_write (hw : isWriteCommand i = false) (hf : i ≠ .flush) {bytes : List Byte} :
    firstRequest i s ≠ some (.write bytes) := by
  cases i with
  | writebit _ | writebiti | write => cases hw
  | flush => exact absurd rfl hf
  | readbit | read => simp [firstRequest]
  | readbyte | getpos | setpos | getlen | setlen | getcaps => exact nofun
  | seek org =>
    simp only [firstRequest]
    split
    · exact nofun
    · split <;> exact nofun

/-- Of a command that is neither a write command nor FLUSH the downstream accepts nothing. -/
theorem exec_accepts_nothing (hw : isWriteCommand i = false) (hf : i ≠ .flush) (h : exec i s = .next t) :
    acceptedBytes (issuedSince s t) = [] := by
  rcases exec_issues_first hf h with hl | ⟨q, a, hq, hl⟩
  · rw [hl, acceptedBytes]
  · rw [hl]
    cases q with
    | write bytes => exact absurd hq (firstRequest_ne_write hw hf)
    | read _ | flush | seek _ _ | getPos | setPos _ | getLen | setLen _ => rfl

/-- Such a command leaves the write accumulator: it does not see a change of it (rule R41). -/
theorem exec_keeps_write (hw : isWriteCommand i = false) (hf : i ≠ .flush) (h : exec i s = .next t) : sameWrite s t := by
  have hunseen : exec i s = mapNext (·.setWr s.wrVal s.wrCnt) (exec i s) :=
    (unseen_setWr s.wrVal s.wrCnt).exec i (fun _ => ⟨fun _ => rfl, fun _ => rfl, fun _ _ _ => rfl⟩)
      (fun hi => absurd hi (by simp [hw, hf])) (fun _ => rfl) fun _ => rfl
  rw [h] at hunseen
  rw [Host.Outcome.next.inj hunseen]
  exact ⟨rfl, rfl⟩

/-! ### What the write commands keep of the accumulator -/

/-- WR_CNT is in 0..7 and WR_VAL is canonical: the part of `State.good` that the write side rests on (rules R36, R37). -/
abbrev State.writeGood (s : State) : Prop := s.wrCnt.toNat ≤ 7 ∧ s.wrCanonical

/-- The state with the read side and BUF empty, which the end of a write command does not look at. -/
def State.writeOnly (s : State) : State := { s with rdCnt := 0#4, bufSize := 0, buf := [] }

theorem State.writeOnly_good (hs : s.writeGood) : s.writeOnly.good :=
  ⟨⟨Nat.zero_le 7, hs.1⟩, hs.2, rfl, nofun, Nat.zero_le _⟩

theorem WritebitRun.writeGood {b : Bool} (h : WritebitRun b s t) (hs : s.writeGood) : t.writeGood := by
  have hrun : WritebitRun b s.writeOnly t.writeOnly := by
    cases h with
    | placed h7 => exact .placed (s := s.writeOnly) h7
    | sent h7 hr => exact .sent (s := s.writeOnly) h7 hr
    | failed h7 hr => exact .failed (s := s.writeOnly) h7 hr
  obtain ⟨⟨-, hcnt⟩, hcan, -⟩ := hrun.good (State.writeOnly_good hs)
  exact ⟨hcnt, hcan⟩

theorem SendRun.writeGood {out : List Byte} {carry : Byte} (h : SendRun out carry s t) (hs : s.writeGood) :
    t.writeGood := by
  have hrun : SendRun out carry s.writeOnly t.writeOnly := by
    cases h with
    | accepted h7 hr => exact .accepted (s := s.writeOnly) h7 hr
    | failed hr => exact .failed (s := s.writeOnly) hr
  obtain ⟨⟨-, hcnt⟩, hcan, -⟩ := hrun.good (State.writeOnly_good hs)
  exact ⟨hcnt, hcan⟩

/-- A write command that completes with OK keeps the account and the write side, whatever BUF and the read side hold. -/
theorem exec_accounts (hw : isWriteCommand i = true) (hs : s.writeGood) (h : exec i s = .next t)
    (hok : t.status.code = .ok) :
    t.writeGood ∧ streamBits s.dir (acceptedBytes (issuedSince s t)) ++ pendingWrite t = pendingWrite s ++ appendedBits i s := by
  cases i with
  | writebit b =>
    have hrun := writeBitBody_run h
    exact ⟨hrun.writeGood hs, hrun.accounts hs.2 hok⟩
  | writebiti =>
    rcases execWritebiti_run h with rfl | hrun
    · cases hok
    · exact ⟨hrun.writeGood hs, hrun.accounts hs.2 hok⟩
  | write =>
    have hrun := execWrite_run h
    refine ⟨?_, hrun.accounts hok⟩
    cases hrun with
    | outOfRange _ => exact hs
    | sent _ hsend => exact hsend.writeGood hs
  | readbit | readbyte | read | flush | seek _ | getpos | setpos | getlen | setlen | getcaps => cases hw

end

/-! ### The account of a session -/

/-- `bits` have been appended between `s` and `t`: the bytes the downstream accepted since `s` and then the pending bits hold
them in order (rules R38, R76, R177). -/
structure Accounted (s : State) (bits : List Bool) (t : State) : Prop where
  record : s.dsLog <+: t.dsLog
  good : t.writeGood
  account : streamBits t.dir (acceptedBytes (issuedSince s t)) ++ pendingWrite t = bits

section
variable {s t u : State} {i : Instr} {bits : List Bool}

theorem Accounted.other (hs : Accounted s bits t) (hw : isWriteCommand i = false) (hf : i ≠ .flush)
    (h : exec i t = .next u) : Accounted s bits u := by
  obtain ⟨hrec, hgood, hacc⟩ := hs
  obtain ⟨⟨hdir, -⟩, hlog, -⟩ := exec_evolves h
  obtain ⟨hval, hcnt⟩ := exec_keeps_write hw hf h
  refine ⟨hrec.trans hlog, ?_, ?_⟩
  · simpa [State.writeGood, State.wrCanonical, hdir, hval, hcnt] using hgood
  · rw [issuedSince_trans hrec hlog, acceptedBytes_append, exec_accepts_nothing hw hf h]
    simpa [pendingWrite, hdir, hval, hcnt] using hacc

theorem Accounted.append (hs : Accounted s bits t) (hw : isWriteCommand i = true) (h : exec i t = .next u)
    (hok : u.status.code = .ok) : Accounted s (bits ++ appendedBits i t) u := by
  obtain ⟨hrec, hgood, rfl⟩ := hs
  obtain ⟨⟨hdir, -⟩, hlog, -⟩ := exec_evolves h
  obtain ⟨hgood', hacc⟩ := exec_accounts hw hgood h hok
  refine ⟨hrec.trans hlog, hgood', ?_⟩
  rw [issuedSince_trans hrec hlog, acceptedBytes_append, hdir, streamBits_append, List.append_assoc, hacc,
    List.append_assoc]

/-- Every session that starts with an empty write accumulator keeps the account. -/
theorem WriteSession.accounted (h : WriteSession s bits t) (h0 : s.wrCnt = 0#4) (hv : s.wrVal = 0x00#8) :
    Accounted s bits t := by
  induction h with
  | start =>
    refine ⟨List.prefix_rfl, ⟨by simp [h0], by simp [State.wrCanonical, hv]⟩, ?_⟩
    simp [issuedSince, acceptedBytes, pendingWrite, h0]
  | host a0 a1 m _ ih => exact ⟨ih.record, ih.good, ih.account⟩
  | other i _ hw hf hexec ih => exact ih.other hw hf hexec
  | append i _ hw hexec hok ih => exact ih.append hw hexec hok

@[simp] theorem streamBits_length (dir : Direction) (bytes : List Byte) :
    (streamBits dir bytes).length = 8 * bytes.length := by
  induction bytes with
  | nil => rfl
  | cons b rest ih =>
    simp [ih]
    omega

end

/-- Settles O30: by induction on the session the account holds, and the pending bits are fewer than eight. -/
theorem writeSessionAccount : Obligations.WriteSessionAccount := by
  intro s u strap bind bits h
  obtain ⟨-, ⟨h7, -⟩, hacc⟩ := h.accounted rfl rfl
  change streamBits u.dir (acceptedBytes (issuedSince s u)) ++ pendingWrite u = bits at hacc
  have hpending : (pendingWrite u).length = u.wrCnt.toNat := by
    simp [pendingWrite]
    omega
  have hlen := congrArg List.length hacc
  rw [List.length_append, streamBits_length, hpending] at hlen
  have hdiv : (acceptedBytes (issuedSince s u)).length = bits.length / 8 := by omega
  have hsent := streamBits_length u.dir (acceptedBytes (issuedSince s u))
  rw [hdiv] at hsent
  refine ⟨hdiv, ?_, by omega, ?_⟩
  · rw [← hsent, ← hacc, List.take_left]
  · rw [← hsent, ← hacc, List.drop_left]

end Sys2Proof.Machine

/-! PROOFS. Stream control: FLUSH, SEEK and the pass-through commands by the answer to their last request, and GETCAPS
(rules R190 to R198). -/

namespace Sys2Proof.Machine

section
variable {s : State} {q : Request} {a : Answer} {d : Downstream}

/-! ### A request behind which the command only completes -/

/-- What a command of stream control comes to, by the answer to its last request: OK with a result that may be the value
answered, or IO_ERROR with the downstream's information (rules R20, R223). -/
theorem request_finish_eq (r : Word64 → Word64) (hr : s.ds.respond q = some (a, d)) :
    (∀ bytes x, a = .ok bytes x → request q s (fun t _ v => .next (t.finish .ok (r v) false)) =
      .next (okAfter (afterRequest s q a d) (r x) false)) ∧
    ∀ e, a = .err e → request q s (fun t _ v => .next (t.finish .ok (r v) false)) =
      .next (failAfter { afterRequest s q a d with ioerr := e } .ioError) := by
  refine ⟨?_, ?_⟩
  · rintro bytes x rfl
    rw [request_answered _ hr, finish_ok_eq_okAfter]
    rfl
  · rintro e rfl
    rw [request_failed _ hr, failIo_eq_failAfter]
    rfl

/-! ### FLUSH and SEEK, case by case -/

/-- FLUSH with nothing pending asks for the downstream flush only (rule R190). -/
theorem exec_flush_of_empty (h0 : s.wrCnt = 0#4) : exec .flush s = flushDownstream s := if_pos h0

/-- FLUSH with bits pending sends the padded byte, and once that is accepted empties the accumulator before the downstream
flush (rules R190, R191). -/
theorem exec_flush_of_pending (h0 : s.wrCnt ≠ 0#4) (h7 : s.wrCnt.toNat ≤ 7) :
    exec .flush s = request (.write [s.flushByte]) s fun t _ _ => flushDownstream (t.setWr 0x00#8 0#4) :=
  (if_neg h0).trans (if_pos (by omega))

theorem bitsPending_iff : s.bitsPending = true ↔ s.rdCnt ≠ 0#4 ∨ s.wrCnt ≠ 0#4 := by simp [State.bitsPending]

/-- A SEEK's word is its opcode with ORG in bits 10..9 (rule R192). -/
theorem encode_seek : ∀ org : BitVec 2, encode (.seek org) = 0x00000008#32 ||| org.setWidth 32 <<< 9 := by decide

/-- SEEK with an origin is rejected when it is relative and bits are pending, else it is forwarded (rules R192, R193). -/
theorem exec_seek_of_origin {org : BitVec 2} {o : Origin} (ho : originOf org = some o) :
    exec (.seek org) s = if o = .current ∧ s.bitsPending then .next (s.fail .notSupported)
      else request (.seek s.signedArg o) s fun t _ p => .next (t.finish .ok p false) := by
  rw [exec, execSeek, ho]

/-! ### GETCAPS -/

/-- The three flags as a number (rule R48). -/
theorem Caps.bits_setWidth (c : Caps) : c.bits.setWidth 64 =
    BitVec.ofNat 64 ((if c.canRead then 1 else 0) + (if c.canWrite then 2 else 0) + if c.canSeek then 4 else 0) := by
  obtain ⟨canRead, canWrite, canSeek⟩ := c
  revert canRead canWrite canSeek
  decide

end

/-! ### The rules -/

/-- Settles O32: FLUSH forwards the flush from the state it started in, or from the one with the accumulator emptied. -/
theorem flushRule : Obligations.FlushRule := by
  refine ⟨decode_encode (i := .flush) rfl, fun s => ⟨fun h0 a d hr => ?_, fun h0 h7 v a d hv hr => ?_⟩⟩
  · rw [exec_flush_of_empty h0]
    exact request_finish_eq (fun _ => 0#64) hr
  · obtain rfl : v = s.flushByte := hv
    refine ⟨?_, ?_⟩
    · rintro e rfl
      rw [exec_flush_of_pending h0 h7, request_failed _ hr, failIo_eq_failAfter]
      rfl
    · rintro bytes x a2 d2 rfl hr2
      rw [exec_flush_of_pending h0 h7, request_answered _ hr]
      exact request_finish_eq (s := (s.heard _ _ d).setWr 0x00#8 0#4) (fun _ => 0#64) hr2

/-- Settles O33: each of the three fields names its origin, and the two cases are those of the pending bits. -/
theorem seekRule : Obligations.SeekRule := by
  intro s org o hmem
  obtain ⟨hwf, ho⟩ : (Instr.seek org).wellFormed = true ∧ originOf org = some o := by
    simp only [List.mem_cons, Prod.mk.injEq, List.not_mem_nil, or_false] at hmem
    rcases hmem with ⟨rfl, rfl⟩ | ⟨rfl, rfl⟩ | ⟨rfl, rfl⟩ <;> exact ⟨rfl, rfl⟩
  refine ⟨encode_seek org ▸ decode_encode hwf, fun hcur hpend => ?_, fun hfree a d hr => ?_⟩
  · rw [exec_seek_of_origin ho, if_pos ⟨hcur, bitsPending_iff.2 hpend⟩, fail_eq_failAfter (by decide)]
  · have hallowed : ¬(o = .current ∧ s.bitsPending = true) := by
      rw [bitsPending_iff]
      tauto
    rw [exec_seek_of_origin ho, if_neg hallowed]
    exact request_finish_eq id hr

/-- Settles O35: each of the four commands is one request behind which it only completes. -/
theorem passThroughRules : Obligations.PassThroughRules :=
  ⟨decode_encode (i := .getpos) rfl, decode_encode (i := .setpos) rfl, decode_encode (i := .getlen) rfl,
    decode_encode (i := .setlen) rfl, fun _ _ _ =>
    ⟨request_finish_eq id, request_finish_eq fun _ => 0#64, request_finish_eq id, request_finish_eq fun _ => 0#64⟩⟩

/-- Settles O36: GETCAPS completes at once with the flags as a number. -/
theorem getcapsRule : Obligations.GetcapsRule := by
  refine ⟨decode_encode (i := .getcaps) rfl, fun s => ?_⟩
  rw [exec, execGetcaps, finish_ok_eq_okAfter, Caps.bits_setWidth]

end Sys2Proof.Machine

/-! PROOFS. How a command ends: refused by the core, completed behind answered requests, or ended by a failed one; from this
what a failure has changed and when each completion code arises (rules R222 to R229). -/

namespace Sys2Proof.Machine

/-! ### The core's own verdict -/

/-- The code the core raises of itself, before any request: OK when it lets the command begin (rules R222, R224, R227 to
R229). -/
def ownVerdict (i : Instr) (s : State) : Code :=
  match i with
  | .writebiti => if s.arg0 = 0#64 then .ok else .invalidArgument
  | .read | .write => if s.outOfBuf then .bufferRange else .ok
  | .seek org => if org = 3#2 then .illegalCommand else if org = 1#2 ∧ s.bitsPending then .notSupported else .ok
  | .readbit | .readbyte | .writebit _ | .flush | .getpos | .setpos | .getlen | .setlen | .getcaps => .ok

section
variable {i : Instr} {s : State}

theorem originOf_eq_none_iff : ∀ {org : BitVec 2}, originOf org = none ↔ org = 3#2 := by decide

theorem originOf_eq_current_iff : ∀ {org : BitVec 2}, originOf org = some .current ↔ org = 1#2 := by decide

theorem outOfBuf_iff : s.outOfBuf = true ↔ s.bufSize < s.arg1.toNat + s.arg0.toNat := decide_eq_true_iff

theorem ownVerdict_seek_of_none {org : BitVec 2} (ho : originOf org = none) : ownVerdict (.seek org) s = .illegalCommand :=
  if_pos (originOf_eq_none_iff.1 ho)

theorem ownVerdict_seek_of_origin {org : BitVec 2} {o : Origin} (ho : originOf org = some o) :
    ownVerdict (.seek org) s = if o = .current ∧ s.bitsPending then .notSupported else .ok := by
  have hne : org ≠ 3#2 := fun h => by simp [originOf_eq_none_iff.2 h] at ho
  have hcur : org = 1#2 ↔ o = .current := by rw [← originOf_eq_current_iff, ho, Option.some.injEq]
  simp only [ownVerdict, if_neg hne, hcur]

theorem ownVerdict_ne_ioError : ownVerdict i s ≠ .ioError := by
  cases i <;> simp [ownVerdict, ite_eq_iff]

theorem ownVerdict_eq_invalidArgument_iff : ownVerdict i s = .invalidArgument ↔ i = .writebiti ∧ s.arg0 ≠ 0#64 := by
  cases i <;> simp [ownVerdict, ite_eq_iff]

theorem ownVerdict_eq_notSupported_iff : ownVerdict i s = .notSupported ↔
    i = .seek 1#2 ∧ (s.rdCnt ≠ 0#4 ∨ s.wrCnt ≠ 0#4) := by
  rw [← bitsPending_iff]
  cases i with
  | seek org =>
    by_cases h1 : org = 1#2
    · simp [ownVerdict, h1]
    · simp [ownVerdict, ite_eq_iff, h1]
  | _ => simp [ownVerdict, ite_eq_iff]

theorem ownVerdict_eq_bufferRange_iff : ownVerdict i s = .bufferRange ↔
    (i = .read ∨ i = .write) ∧ s.bufSize < s.arg1.toNat + s.arg0.toNat := by
  rw [← outOfBuf_iff]
  cases i <;> simp [ownVerdict, ite_eq_iff]

theorem ownVerdict_eq_illegalCommand_iff : ownVerdict i s = .illegalCommand ↔ i.wellFormed = false := by
  cases i <;> simp [ownVerdict, ite_eq_iff, Instr.wellFormed]

end

/-! ### How a command ends -/

/-- Between `s` and `u` every request was answered with success. -/
def SucceededSince (s u : State) : Prop := ∃ l, u.dsLog = s.dsLog ++ l ∧ ∀ q e, (q, Answer.err e) ∉ l

/-- The state `u` in which the command `i`, started in `s`, asks a request: the start itself, or the one in which FLUSH has
emptied the accumulator behind an accepted byte (rule R191). -/
inductive AsksIn (i : Instr) (s : State) : State → Prop where
  | start : AsksIn i s s
  | emptied {bytes : List Byte} {x : Word64} {d : Downstream} (hi : i = .flush) (h0 : s.wrCnt ≠ 0#4)
      (hr : s.ds.respond (.write [s.flushByte]) = some (.ok bytes x, d)) :
      AsksIn i s ((s.heard (.write [s.flushByte]) (.ok bytes x) d).setWr 0x00#8 0#4)

/-- How the command `i`, started in `s`, can end: the core refuses it, it completes with OK and no request failed, or its
last request failed. What a failed READ makes of BUF and of the counter of free bytes is left open here (rule R158). -/
inductive Ending (i : Instr) (s : State) : State → Prop where
  | refused {c : Code} (hv : ownVerdict i s = c) (hc : c ≠ .ok) : Ending i s (s.fail c)
  | completed {t : State} (hv : ownVerdict i s = .ok) (hok : t.status.code = .ok) (hl : SucceededSince s t) : Ending i s t
  | failed {u : State} {q : Request} {e : Word32} {d : Downstream} (m : List Host.Cell) (n : Nat)
      (hv : ownVerdict i s = .ok) (hu : AsksIn i s u) : Ending i s ((((u.heard q (.err e) d).setBuf m).drew n).failIo e)

section
variable {i : Instr} {s t u : State} {q : Request} {a : Answer} {bytes : List Byte} {x : Word64} {e : Word32} {d : Downstream}

theorem SucceededSince.silent (h : t.dsLog = s.dsLog) : SucceededSince s t := ⟨[], by simp [h], nofun⟩

theorem SucceededSince.answered (hu : SucceededSince s u) (h : t.dsLog = u.dsLog ++ [(q, .ok bytes x)]) :
    SucceededSince s t := by
  obtain ⟨l, hlog, hl⟩ := hu
  refine ⟨l ++ [(q, .ok bytes x)], by rw [h, hlog, List.append_assoc], fun q' e' => ?_⟩
  simpa using hl q' e'

theorem SucceededSince.not_mem (h : SucceededSince s t) : (q, .err e) ∉ issuedSince s t := by
  obtain ⟨l, hlog, hl⟩ := h
  rw [issuedSince_of_append hlog]
  exact hl q e

/-- A request that follows others was issued. -/
theorem SucceededSince.mem (hu : SucceededSince s u) (h : t.dsLog = u.dsLog ++ [(q, a)]) : (q, a) ∈ issuedSince s t := by
  obtain ⟨l, hlog, -⟩ := hu
  rw [issuedSince_of_append (l := l ++ [(q, a)]) (by rw [h, hlog, List.append_assoc])]
  simp

theorem AsksIn.succeededSince (h : AsksIn i s u) : SucceededSince s u := by
  cases h with
  | start => exact .silent rfl
  | emptied _ _ _ => exact (SucceededSince.silent rfl).answered rfl

theorem Ending.silent (hv : ownVerdict i s = .ok) (hok : t.status.code = .ok) (hlog : t.dsLog = s.dsLog) : Ending i s t :=
  .completed hv hok (.silent hlog)

theorem Ending.answered (hv : ownVerdict i s = .ok) (hok : t.status.code = .ok)
    (hlog : t.dsLog = s.dsLog ++ [(q, .ok bytes x)]) : Ending i s t :=
  .completed hv hok ((SucceededSince.silent rfl).answered hlog)

theorem Ending.requestFailed (hv : ownVerdict i s = .ok) : Ending i s ((s.heard q (.err e) d).failIo e) :=
  .failed s.buf 0 hv .start

/-! ### The commands -/

theorem ReadbitRun.ending (h : ReadbitRun s t) : Ending .readbit s t := by
  cases h with
  | pending _ _ => exact .silent rfl rfl rfl
  | fetched _ _ | sentinel _ _ => exact .answered rfl rfl rfl
  | failed _ _ => exact .requestFailed rfl

theorem ReadbyteRun.ending (h : ReadbyteRun s t) : Ending .readbyte s t := by
  cases h with
  | answered _ | sentinel _ => exact .answered rfl rfl rfl
  | failed _ => exact .requestFailed rfl

theorem Ending.outOfRange (hi : i = .read ∨ i = .write) (ho : s.outOfBuf = true) : Ending i s (s.fail .bufferRange) := by
  refine .refused ?_ (by decide)
  rcases hi with rfl | rfl <;> exact if_pos ho

theorem ReadRun.ending (h : ReadRun s t) : Ending .read s t := by
  cases h with
  | outOfRange ho => exact .outOfRange (.inl rfl) ho
  | nothing ho _ => exact .silent (if_neg (by simp [ho])) rfl rfl
  | answered ho _ => exact .answered (if_neg (by simp [ho])) rfl rfl
  | failed ho _ _ => exact .failed _ _ (if_neg (by simp [ho])) .start

theorem WritebitRun.ending {b : Bool} (h : WritebitRun b s t) (hv : ownVerdict i s = .ok) : Ending i s t := by
  cases h with
  | placed _ => exact .silent hv rfl rfl
  | sent _ _ => exact .answered hv rfl rfl
  | failed _ _ => exact .requestFailed hv

theorem execWritebiti_ending (h : execWritebiti s = .next t) : Ending .writebiti s t := by
  unfold execWritebiti at h
  by_cases h0 : s.arg0 = 0#64
  · rw [if_neg (not_not.2 (signedArg_eq_zero_iff.2 h0))] at h
    exact (writeBitBody_run h).ending (if_pos h0)
  · rw [if_pos (mt signedArg_eq_zero_iff.1 h0)] at h
    cases h
    exact .refused (if_neg h0) (by decide)

theorem WriteRun.ending (h : WriteRun s t) : Ending .write s t := by
  cases h with
  | outOfRange ho => exact .outOfRange (.inr rfl) ho
  | sent ho hsend =>
    cases hsend with
    | accepted _ _ => exact .answered (if_neg (by simp [ho])) rfl rfl
    | failed _ => exact .requestFailed (if_neg (by simp [ho]))

theorem PassRun.ending (h : PassRun q u t) (hv : ownVerdict i s = .ok) (hu : AsksIn i s u) : Ending i s t := by
  cases h with
  | answered _ => exact .completed hv rfl (hu.succeededSince.answered rfl)
  | failed _ => exact .failed u.buf 0 hv hu

theorem FlushRun.ending (h : FlushRun s t) : Ending .flush s t := by
  cases h with
  | empty _ hpass => exact hpass.ending rfl .start
  | sent h0 hr hpass => exact hpass.ending rfl (.emptied rfl h0 hr)
  | failed _ _ => exact .requestFailed rfl

theorem execSeek_ending {org : BitVec 2} (h : execSeek org s = .next t) : Ending (.seek org) s t := by
  unfold execSeek at h
  split at h
  · next ho =>
    cases h
    exact .refused (ownVerdict_seek_of_none ho) (by decide)
  · next o ho =>
    have hv := ownVerdict_seek_of_origin (s := s) ho
    split at h
    · next hp =>
      cases h
      exact .refused (hv.trans (if_pos hp)) (by decide)
    · next hp => exact (PassRun.of_request (r := id) h).ending (hv.trans (if_neg hp)) .start

/-- A command that comes to a next state ended in one of the three ways. -/
theorem exec_ending (h : exec i s = .next t) : Ending i s t := by
  cases i with
  | readbit => exact (execReadbit_run h).ending
  | readbyte => exact (execReadbyte_run h).ending
  | read => exact (execRead_run h).ending
  | writebit b => exact (writeBitBody_run h).ending rfl
  | writebiti => exact execWritebiti_ending h
  | write => exact (execWrite_run h).ending
  | flush => exact (execFlush_run h).ending
  | seek org => exact execSeek_ending h
  | getpos | getlen => exact (PassRun.of_request (r := id) h).ending rfl .start
  | setpos | setlen => exact (PassRun.of_request (r := fun _ => 0#64) h).ending rfl .start
  | getcaps =>
    cases h
    exact .silent rfl rfl rfl

/-! ### The codes -/

/-- A code of the core's own comes from its verdict. -/
theorem Ending.code_eq_iff (h : Ending i s t) {c : Code} (hok : c ≠ .ok) (hio : c ≠ .ioError) :
    t.status.code = c ↔ ownVerdict i s = c := by
  cases h with
  | refused hv _ => rw [hv]; exact Iff.rfl
  | completed hv hcode _ => rw [hcode, hv]
  | failed _ _ hv _ => simp [State.failIo_eq_finish, hv, hok.symm, hio.symm]

/-- IO_ERROR comes from a request that failed (rule R223). -/
theorem Ending.code_eq_ioError_iff (h : Ending i s t) :
    t.status.code = .ioError ↔ ∃ q e, (q, Answer.err e) ∈ issuedSince s t ∧ t.ioerr = e := by
  cases h with
  | @refused c hv _ =>
    have hl : SucceededSince s (s.fail c) := .silent rfl
    exact ⟨fun hio => absurd (hv.trans hio) ownVerdict_ne_ioError, fun ⟨_, _, hmem, _⟩ => absurd hmem hl.not_mem⟩
  | completed _ hok hl => exact ⟨fun hio => by simp [hok] at hio, fun ⟨_, _, hmem, _⟩ => absurd hmem hl.not_mem⟩
  | failed _ _ _ hu => exact ⟨fun _ => ⟨_, _, hu.succeededSince.mem rfl, rfl⟩, fun _ => rfl⟩

end

/-! ### The rules -/

/-- Settles O44: the core's own codes are its verdict before any request, and IO_ERROR is that of a failed request. -/
theorem codesByCommand : Obligations.CodesByCommand := by
  intro i s t h
  have hend := exec_ending h
  have hown : ∀ c, c ≠ .ok → c ≠ .ioError → (t.status.code = c ↔ ownVerdict i s = c) := fun _ => hend.code_eq_iff
  exact ⟨(hown _ (by decide) (by decide)).trans ownVerdict_eq_invalidArgument_iff,
    (hown _ (by decide) (by decide)).trans ownVerdict_eq_notSupported_iff,
    (hown _ (by decide) (by decide)).trans ownVerdict_eq_bufferRange_iff,
    (hown _ (by decide) (by decide)).trans ownVerdict_eq_illegalCommand_iff, hend.code_eq_ioError_iff⟩

section
variable {i : Instr} {s t : State}

/-- A command that failed otherwise than by a request has changed RES and STATUS only (rule R226). -/
theorem Ending.eq_fail (h : Ending i s t) (hfail : t.status.code ≠ .ok) (hio : t.status.code ≠ .ioError) :
    t = s.fail (ownVerdict i s) := by
  cases h with
  | refused hv _ => rw [hv]
  | completed _ hok _ => exact absurd hok hfail
  | failed _ _ _ _ => exact absurd rfl hio

/-- A command that failed has left the read accumulator, and the write accumulator but for FLUSH's second request. -/
theorem Ending.accumulators (h : Ending i s t) (hfail : t.status.code ≠ .ok) :
    (t.rdVal = s.rdVal ∧ t.rdCnt = s.rdCnt) ∧ (sameWrite s t ∨
      (i = .flush ∧ s.wrCnt ≠ 0#4 ∧ t.status.code = .ioError ∧ t.wrVal = 0x00#8 ∧ t.wrCnt = 0#4 ∧
        ∃ bytes x d, s.ds.respond (.write [s.flushByte]) = some (.ok bytes x, d))) := by
  cases h with
  | refused _ _ => exact ⟨⟨rfl, rfl⟩, .inl ⟨rfl, rfl⟩⟩
  | completed _ hok _ => exact absurd hok hfail
  | failed _ _ _ hu =>
    cases hu with
    | start => simp [State.failIo_eq_finish, sameWrite]
    | emptied hi h0 hr => simp [State.failIo_eq_finish, hi, h0, hr]

/-- A byte of BUF stays, but in the range of a READ that failed with IO_ERROR (rules R158, R226). -/
theorem exec_failed_get (hm : Memory.wf s.buf = true) (h : exec i s = .next t) (hfail : t.status.code ≠ .ok) (y : Nat) :
    (i = .read ∧ t.status.code = .ioError ∧ s.base ≤ y ∧ y < s.base + s.count) ∨
      Memory.get t.buf y = Memory.get s.buf y := by
  by_cases hi : i = .read
  · by_cases hio : t.status.code = .ioError
    · subst hi
      by_cases hy : s.base ≤ y ∧ y < s.base + s.count
      · exact .inl ⟨rfl, hio, hy⟩
      · obtain ⟨out, hlen, hbuf⟩ := (execRead_run h).buf
        exact .inr (hbuf ▸ Memory.get_write_outside hm hlen (by omega))
    · exact .inr (by rw [(exec_ending h).eq_fail hfail hio]; rfl)
  · exact .inr (by rw [exec_buf_eq hi h])

end

/-- Settles O40: an illegal word is refused by `raise`; of a command's three endings two fail, and they write no more. -/
theorem failureChangesOnly : Obligations.FailureChangesOnly := by
  refine ⟨fun w e s t hw h => ?_, fun i s t hm h hfail => ?_⟩
  · rw [runCommand_illegal hw, fail_eq_failAfter (by decide)] at h
    exact (Host.Outcome.next.inj h).symm
  · have hend := exec_ending h
    obtain ⟨-, hsticky, -, hcleared, -, -⟩ := completionFlags i s t h
    obtain ⟨heos, hres⟩ := hcleared hfail
    obtain ⟨⟨hval, hcnt⟩, hwrite⟩ := hend.accumulators hfail
    obtain ⟨hset, -⟩ := exec_evolves h
    refine ⟨heos, by simp [hsticky, hfail], hres, fun hio => ?_, hval, hcnt, hset, hwrite, exec_failed_get hm h hfail⟩
    rw [hend.eq_fail hfail hio]
    exact ⟨rfl, rfl, rfl⟩

end Sys2Proof.Machine

/-! PROOFS. The reference memory stream, request by request (rules R246 to R250). -/

namespace Sys2Proof.Machine

section
variable {r : Rms}

/-! ### CONTENT byte by byte -/

theorem getD_drop_eq (l : List Byte) (n j : Nat) (v : Byte) : (l.drop n).getD j v = l.getD (n + j) v := by
  simp [List.getD_eq_getElem?_getD]

theorem getD_take_of_lt (l : List Byte) {n j : Nat} (hj : j < n) (v : Byte) : (l.take n).getD j v = l.getD j v := by
  simp [List.getD_eq_getElem?_getD, hj]

/-- A byte of the padded content is that of CONTENT, and 0x00 past its end (rules R247, R249). -/
theorem padTo_getD {content : List Byte} {n j : Nat} (hj : j < max content.length n) (v : Byte) :
    (padTo content n).getD j v = content.getD j 0x00#8 := by
  unfold padTo
  by_cases h : j < content.length
  · rw [List.getD_append _ _ _ _ h, List.getD_eq_getElem _ _ h, List.getD_eq_getElem _ _ h]
  · have hpad : j - content.length < n - content.length := by omega
    rw [List.getD_append_right _ _ _ _ (by omega), List.getD_replicate _ hpad, List.getD_eq_default _ _ (by omega)]

/-- The content a write leaves ends at its own end or, when it lies inside, at the old one (rule R247). -/
theorem Rms.write_length (r : Rms) (bytes : List Byte) :
    (r.write bytes).2.content.length = max r.content.length (r.pos + bytes.length) := by
  simp only [Rms.write, List.length_append, List.length_take, List.length_drop, padTo_length]
  omega

/-- A write puts its bytes at POS, the rest being the padded content (rule R247). -/
theorem Rms.write_getD {bytes : List Byte} {j : Nat} (hj : j < max r.content.length (r.pos + bytes.length)) (v : Byte) :
    (r.write bytes).2.content.getD j v =
      if r.pos ≤ j ∧ j < r.pos + bytes.length then bytes.getD (j - r.pos) 0x00#8 else r.content.getD j 0x00#8 := by
  have hfront : ((padTo r.content r.pos).take r.pos).length = r.pos := by simp
  unfold Rms.write
  dsimp only
  rw [List.append_assoc]
  by_cases hlo : j < r.pos
  · rw [if_neg (by omega), List.getD_append _ _ _ _ (by omega), getD_take_of_lt _ hlo, padTo_getD (by omega)]
  · rw [List.getD_append_right _ _ _ _ (by omega), hfront]
    by_cases hhi : j - r.pos < bytes.length
    · rw [if_pos (by omega), List.getD_append _ _ _ _ hhi, List.getD_eq_getElem _ v hhi, List.getD_eq_getElem _ _ hhi]
    · rw [if_neg (by omega), List.getD_append_right _ _ _ _ (by omega), getD_drop_eq,
        show r.pos + bytes.length + (j - r.pos - bytes.length) = j by omega, padTo_getD (by omega)]

/-- A position or length below 2^63 is answered as it is (rule R13). -/
theorem quantity_toInt {n : Nat} (hn : n < 2 ^ 63) : (quantity n).toInt = n := by
  have hnat : (BitVec.ofNat 64 n).toNat = n := Nat.mod_eq_of_lt (by omega)
  rw [quantity, if_pos hn, BitVec.toInt_eq_toNat_of_lt (by omega), hnat]

end

/-! ### The rules -/

/-- Settles O53: the bytes answered are CONTENT's, dropped up to POS and cut to n. -/
theorem memoryStreamRead : Obligations.MemoryStreamRead := by
  refine fun r n => ⟨_, _, _, rfl, by simp, fun j hj => ?_, rfl, rfl⟩
  have hn : j < n := by simp at hj; omega
  rw [getD_take_of_lt _ hn, getD_drop_eq]

/-- Settles O54: a byte of the new content is one that was written, or that of the padded content. -/
theorem memoryStreamWrite : Obligations.MemoryStreamWrite := fun r bytes =>
  ⟨⟨_, _, _, rfl, rfl, r.write_length bytes, fun _ hj => Rms.write_getD (hj.trans_eq (r.write_length bytes)) _⟩,
    _, _, rfl⟩

/-- Settles O55: the target of a seek is its base and offset, and a negative one is refused. -/
theorem memoryStreamPositions : Obligations.MemoryStreamPositions := by
  refine fun r v => ⟨fun o t ht => ?_, fun hv => ?_, fun hv => ?_, _, _, rfl, quantity_toInt⟩
  · obtain rfl : t = (r.seekBase o : Int) + v := by cases o <;> exact ht
    refine ⟨fun hneg => ?_, fun hnn => ⟨[], quantity ((r.seekBase o : Int) + v).toNat, ?_, fun hlt => ?_⟩⟩
    · simp [Rms.respond, Rms.seek, hneg, Rms.negative]
    · simp [Rms.respond, Rms.seek, Int.not_lt.2 hnn]
    · rw [quantity_toInt (by omega), Int.toNat_of_nonneg hnn]
  · simp [Rms.respond, Rms.setPos, hv, Rms.negative]
  · exact ⟨[], 0#64, by simp [Rms.respond, Rms.setPos, Int.not_lt.2 hv]⟩

/-- Settles O56: a new length of CONTENT pads it and cuts it. -/
theorem memoryStreamLength : Obligations.MemoryStreamLength := by
  refine fun r v => ⟨⟨_, _, rfl, quantity_toInt⟩, fun hv => ?_, fun hv => ?_⟩
  · simp [Rms.respond, Rms.setLen, hv, Rms.negative]
  · refine ⟨[], 0#64, { r with content := (padTo r.content v.toNat).take v.toNat }, ?_, rfl, by simp, fun j hj => ?_⟩
    · simp [Rms.respond, Rms.setLen, Int.not_lt.2 hv]
    · rw [getD_take_of_lt _ hj, padTo_getD (by omega)]

end Sys2Proof.Machine
